-- ==== Sys2Proof/Word.lean ====
section
/-! DEFINITION. The word types of the block (spec 00_scope.md R10, R11): every value is an unsigned
field of stated width, a byte string or an ordered list. -/

namespace Sys2Proof

/-- A byte, bits 7 (most significant) to 0 (R11). -/
abbrev Byte := BitVec 8

/-- A 16-bit field: the `u16` operand type (R70), identifiers and buffer offsets. -/
abbrev Half := BitVec 16

/-- A 32-bit field: the `u32` operand type (R70), RESULT and the CRC register. -/
abbrev Word := BitVec 32

end Sys2Proof
end

