-- ==== Sys2Proof/Config.lean ====
section
/-! DEFINITION. The parameters of the implementation (spec 00_scope.md R6 to R9) and the model's open
values. A constant the spec gives a value to is a definition; a parameter the spec leaves OPEN is an
`opaque` constant without a body, so that nothing can be proved of its value. -/

namespace Sys2Proof.Config

/-! ### R6: constants the source fixes -/

/-- PACKET_SIZE (R6): bytes in one transport packet. -/
abbrev packetSize : Nat := 188

/-- TS_HDR (R6): header bytes in one transport packet. -/
abbrev tsHdr : Nat := 4

/-- P (R6): payload bytes per packet, PACKET_SIZE − TS_HDR. -/
abbrev payloadSize : Nat := 184

/-- SYNC (R6): first byte of every packet. -/
abbrev sync : Byte := 0x47#8

/-- STUFF (R6): the stuffing byte. -/
abbrev stuff : Byte := 0xFF#8

/-- POINTER_FIELD (R6): the byte prepended to the section. -/
abbrev pointerField : Byte := 0x00#8

/-- CC (R6): continuity counter in every packet. -/
abbrev cc : BitVec 4 := 0#4

/-- PRIVATE_TAG_MIN (R6): lowest tag of the private-use range. -/
abbrev privateTagMin : Nat := 0x80

/-- DESC_HDR (R6): tag byte plus length byte. -/
abbrev descHdr : Nat := 2

/-- CRC_LEN (R6): bytes of CRC appended. -/
abbrev crcLen : Nat := 4

/-- DESC_MAX_PAYLOAD (R6): the largest payload an 8-bit length declares. -/
abbrev descMaxPayload : Nat := 255

/-- SECTION_NUMBER (R6). -/
abbrev sectionNumber : Byte := 0#8

/-- LAST_SECTION_NUMBER (R6). -/
abbrev lastSectionNumber : Byte := 0#8

/-! ### R7: constants the source requires to match the standard (the spec's values, from general knowledge) -/

/-- CRC_POLY (R7): generator polynomial without the x^32 term. -/
abbrev crcPoly : Word := 0x04C11DB7#32

/-- CRC_INIT (R7): initial value of the CRC register. -/
abbrev crcInit : Word := 0xFFFFFFFF#32

/-- CRC_XOROUT (R7): value XORed into the final register. -/
abbrev crcXorOut : Word := 0#32

/-- CRC_REFLECT (R7): whether the input bytes and the result are reflected. `false`: bits enter most significant
first (R230). -/
abbrev crcReflect : Bool := false

/-- MAX_SECTION (R7): largest total section size in bytes, CRC included. -/
abbrev maxSection : Nat := 1024

/-- SEC_FLAGS (R7): high 4 bits of the word that carries the section length. -/
abbrev secFlags : BitVec 4 := 0b1111#4

/-- RSV4 (R7): high 4 bits of every word that carries a 12-bit loop length. -/
abbrev rsv4 : BitVec 4 := 0b1111#4

/-- VER_RSV (R7): high 2 bits of the version byte. -/
abbrev verRsv : BitVec 2 := 0b11#2

/-- CNI (R7): current/next flag, bit 0 of the version byte. -/
abbrev cni : BitVec 1 := 1#1

/-- TS_TEI (R7): bit 15 of the packet's 16-bit field. -/
abbrev tsTei : BitVec 1 := 0#1

/-- TS_PRIO (R7): bit 13 of the packet's 16-bit field. -/
abbrev tsPrio : BitVec 1 := 0#1

/-- TS_SCR (R7): bits 7:6 of packet byte 3. -/
abbrev tsScr : BitVec 2 := 0b00#2

/-- TS_AFC (R7): bits 5:4 of packet byte 3 (payload only). -/
abbrev tsAfc : BitVec 2 := 0b01#2

/-! ### R8: the spec's own parameters -/

/-- BUF_SIZE (R8): cells in the assembly buffer. -/
abbrev bufSize : Nat := 4096

/-- OBUF_SIZE (R8): cells in the packet output buffer (6 packets). -/
abbrev obufSize : Nat := 1128

/-- PATCH_DEPTH (R8): entries in the patch stack. -/
abbrev patchDepth : Nat := 8

/-- PLACEHOLDER (R8): the value a reserved length field holds until patched. -/
abbrev placeholder : Byte := 0x00#8

/-- BLOCK_ID (R8): the constant read from CSR 0. -/
abbrev blockId : Word := 0x47533933#32

/-- ENTITY_DESC_LEN (R8, D11): OPEN in {0, 1}. `true` is 1: each entity's descriptors are preceded by a
12-bit length word; `false` is 0: they follow the 4-byte entity header directly. It has no body: every
statement holds for both arms (log entry 1). -/
opaque entityDescLen : Bool

/-! ### Free values -/

/-- FREE VALUE (log entry 2, DESIGN CHOICE): what the 32-bit RESULT of a SUCCESSFUL command holds when
the number its rule returns (a list length, a section size) is 2^32 or more. R31 gives RESULT 32 bits,
R22 leaves the lists unbounded, and no rule says what a success writes then. -/
opaque wideResult : Nat → Word

end Sys2Proof.Config
end

