-- ==== Sys2Proof/Machine/Bytes.lean ====
section
/-! DEFINITION. Byte order and byte sequences (spec 00_scope.md R11, R12; 20_memory.md R53, R54). -/

namespace Sys2Proof

/-- `be16(v)` (R11): the more significant byte first. -/
def be16 (v : Half) : List Byte := [v.extractLsb' 8 8, v.extractLsb' 0 8]

/-- `be32(v)` (R11). -/
def be32 (v : Word) : List Byte :=
  [v.extractLsb' 24 8, v.extractLsb' 16 8, v.extractLsb' 8 8, v.extractLsb' 0 8]

/-- `u16(b0, b1)` (R11). -/
def u16 (b0 b1 : Byte) : Half := b0 ++ b1

/-- `u32(b0, b1, b2, b3)` (R11). -/
def u32 (b0 b1 b2 b3 : Byte) : Word := (b0 ++ b1 ++ b2 ++ b3 : BitVec (8 + 8 + 8 + 8))

/-- The `k` bytes of the `8k`-bit number `v`, most significant first (R106). -/
def beBytes : Nat → Nat → List Byte
  | 0, _ => []
  | k + 1, v => BitVec.ofNat 8 (v / 256 ^ k) :: beBytes k v

/-- The bytes of a sequence of 32-bit fields, in order. -/
def be32s (vs : List Word) : List Byte := vs.flatMap be32

/-- The first `n` bytes and the rest, where there are that many. -/
def takeN (n : Nat) (r : List Byte) : Option (List Byte × List Byte) :=
  if n ≤ r.length then some (r.take n, r.drop n) else none

/-- What is left after `n` bytes, where there are that many. -/
def dropN (n : Nat) (r : List Byte) : Option (List Byte) :=
  if n ≤ r.length then some (r.drop n) else none

/-- A 16-bit field at the head of a byte sequence. -/
def take16 : List Byte → Option (Half × List Byte)
  | a :: b :: r => some (u16 a b, r)
  | _ => none

/-- A 16-bit field that is present only when `c` holds. -/
def take16If (c : Bool) (r : List Byte) : Option (Option Half × List Byte) :=
  if c then (take16 r).map (fun x => (some x.1, x.2)) else some (none, r)

/-- The 16-bit field of an optional value, where it is present. -/
def be16Opt : Option Half → List Byte
  | some v => be16 v
  | none => []

/-- A byte sequence read as 32-bit fields; defined when its length is a multiple of 4. -/
def words32 : List Byte → Option (List Word)
  | [] => some []
  | a :: b :: c :: d :: r => (words32 r).map (u32 a b c d :: ·)
  | _ => none

end Sys2Proof
end

