-- ==== Sys2Proof/Syntax.lean ====
section
/-! DEFINITION. The instructions: one constructor per row of spec/opcode_table.json. The 24 `CMD` rows are
the commands of R73; the 16 `TLV` rows are the `PACK.<KIND>` pseudo-instructions of R83 and R96, whose
operand is the typed value of the kind (42_descriptor_kinds.md); the 7 `WIRE` rows are the wire patterns of
30_encoding.md R75 to R81. -/

namespace Sys2Proof

/-! ### Typed values of the descriptor kinds (R132: the domain of `pack_k`, the range of `parse_k`) -/

/-- A 3-byte language code (R157 to R160, R163). -/
structure Lang where
  c0 : Byte
  c1 : Byte
  c2 : Byte
deriving DecidableEq, Repr

/-- One entry of a service list (R151). -/
structure ServiceEntry where
  serviceId : Half
  serviceType : Byte
deriving DecidableEq, Repr

/-- Satellite delivery system, tag 0x43 (R152). -/
structure SatDelivery where
  frequency : Word
  orbitalPosition : Half
  westEastFlag : BitVec 1
  polarization : BitVec 2
  rollOff : BitVec 2
  modulationSystem : BitVec 1
  modulationType : BitVec 2
  symbolRate : BitVec 28
  fecInner : BitVec 4
deriving DecidableEq, Repr

/-- Cable delivery system, tag 0x44 (R153). -/
structure CableDelivery where
  frequency : Word
  fecOuter : BitVec 4
  modulation : Byte
  symbolRate : BitVec 28
  fecInner : BitVec 4
deriving DecidableEq, Repr

/-- Terrestrial delivery system, tag 0x5A (R154). -/
structure TerrDelivery where
  centreFrequency : Word
  bandwidth : BitVec 3
  priority : BitVec 1
  timeSlicingIndicator : BitVec 1
  mpeFecIndicator : BitVec 1
  constellation : BitVec 2
  hierarchyInformation : BitVec 3
  codeRateHp : BitVec 3
  codeRateLp : BitVec 3
  guardInterval : BitVec 2
  transmissionMode : BitVec 2
  otherFrequencyFlag : BitVec 1
deriving DecidableEq, Repr

/-- The hand-over sub-record of a linkage descriptor (R156). -/
structure HandOver where
  handOverType : BitVec 4
  originType : BitVec 1
  networkId : Option Half
  initialServiceId : Option Half
deriving DecidableEq, Repr

/-- The event sub-record of a linkage descriptor (R156). -/
structure LinkEvent where
  targetEventId : Half
  targetListed : BitVec 1
  eventSimulcast : BitVec 1
deriving DecidableEq, Repr

/-- One entry of the repeating target list of a linkage descriptor (R156). -/
structure LinkTarget where
  targetEventId : Half
  targetListed : BitVec 1
  eventSimulcast : BitVec 1
  linkType : BitVec 2
  targetIdType : BitVec 2
  originalNetworkIdFlag : BitVec 1
  serviceIdFlag : BitVec 1
  userDefinedId : Option Half
  targetTransportStreamId : Option Half
  targetOriginalNetworkId : Option Half
  targetServiceId : Option Half
deriving DecidableEq, Repr

/-- The trailer of a linkage descriptor (R155, R156). -/
inductive LinkageTrailer where
  | absent
  | handOver (v : HandOver)
  | event (v : LinkEvent)
  | targets (vs : List LinkTarget)
deriving DecidableEq, Repr

/-- Linkage, tag 0x4A (R155). -/
structure Linkage where
  transportStreamId : Half
  originalNetworkId : Half
  serviceId : Half
  linkageType : Byte
  trailer : LinkageTrailer
  privateData : List Byte
deriving DecidableEq, Repr

/-- Short event, tag 0x4D (R157). -/
structure ShortEvent where
  lang : Lang
  eventName : List Byte
  text : List Byte
deriving DecidableEq, Repr

/-- One item of an extended event (R158). -/
structure EventItem where
  description : List Byte
  item : List Byte
deriving DecidableEq, Repr

/-- Extended event, tag 0x4E (R158). -/
structure ExtendedEvent where
  descriptorNumber : BitVec 4
  lastDescriptorNumber : BitVec 4
  lang : Lang
  items : List EventItem
  text : List Byte
deriving DecidableEq, Repr

/-- One per-language block of tags 0x5B and 0x5E (R159, R160). -/
structure LangBlock where
  lang : Lang
  name : List Byte
deriving DecidableEq, Repr

/-- Multilingual component, tag 0x5E (R160). -/
structure MlComponent where
  componentTag : Byte
  blocks : List LangBlock
deriving DecidableEq, Repr

/-- Frequency list, tag 0x62 (R162). -/
structure FrequencyList where
  codingType : BitVec 2
  frequencies : List Word
deriving DecidableEq, Repr

/-- Data broadcast, tag 0x64 (R163). -/
structure DataBroadcast where
  dataBroadcastId : Half
  componentTag : Byte
  selector : List Byte
  lang : Lang
  text : List Byte
deriving DecidableEq, Repr

/-- One subcell of a cell (R165). -/
structure T2Subcell where
  cellIdExtension : Byte
  transposerFrequency : Word
deriving DecidableEq, Repr

/-- One cell (R165). With tfs_flag = 0 the cell has exactly one frequency. -/
structure T2Cell where
  cellId : Half
  frequencies : List Word
  subcells : List T2Subcell
deriving DecidableEq, Repr

/-- The optional part of R165, present when n > 4. -/
structure T2Long where
  sisoMiso : BitVec 2
  bandwidth : BitVec 4
  guardInterval : BitVec 3
  transmissionMode : BitVec 3
  otherFrequencyFlag : BitVec 1
  tfsFlag : BitVec 1
  cells : List T2Cell
deriving DecidableEq, Repr

/-- Extension with tag_extension 0x04 (R165). -/
structure T2Delivery where
  plpId : Byte
  t2SystemId : Half
  long : Option T2Long
deriving DecidableEq, Repr

/-! ### The instructions -/

/-- One constructor per row of spec/opcode_table.json, in the table's order. Operands have the widths of the
command frame (R70, R73), so a value outside the narrower range of R72 is still an instruction: the block
answers it with BadCommand(3). -/
inductive Instr where
  | csrRd (n : Byte)
  | bufRd (off n : Half)
  | obufRd (off n : Half)
  | asmReset (cap : Half)
  | asmPut8 (v : Byte)
  | asmPut16 (v : Half)
  | asmPut32 (v : Word)
  | asmPutn (b : List Byte)
  | asmPutf (w : Byte) (v : Word)
  | asmRsv8
  | asmRsv12 (hi : Byte)
  | asmPatch
  | descSize (tag : Byte) (p : List Byte)
  | descEnc (tag : Byte) (p : List Byte)
  | descDec (k : Byte) (b : List Byte)
  | secInit (tableId : Byte) (networkId : Half) (version : Byte) (pid : Half)
  | secAddd (tag : Byte) (p : List Byte)
  | secAdde (tsId onId : Half)
  | entAddd (h : Half) (tag : Byte) (p : List Byte)
  | secSize
  | secEnc (cap : Half)
  | crcCalc (off len : Half)
  | pktSize
  | pktEnc (cap : Half)
  | packNetworkName (text : List Byte)
  | packServiceList (entries : List ServiceEntry)
  | packSatDelivery (v : SatDelivery)
  | packCableDelivery (v : CableDelivery)
  | packLinkage (v : Linkage)
  | packShortEvent (v : ShortEvent)
  | packExtendedEvent (v : ExtendedEvent)
  | packTerrDelivery (v : TerrDelivery)
  | packMlNetworkName (blocks : List LangBlock)
  | packMlComponent (v : MlComponent)
  | packPrivateDataSpec (v : Word)
  | packFrequencyList (v : FrequencyList)
  | packDataBroadcast (v : DataBroadcast)
  | packExtension (tagExtension : Byte) (body : List Byte)
  | packExtensionT2 (v : T2Delivery)
  | packOpaque (tag : Byte) (raw : List Byte)
  | wireDescriptor (tag length : Byte)
  | wireLengthWord (flags : BitVec 4) (count : BitVec 12)
  | wireSectionHeader (tableId : Byte) (sectionLength : BitVec 12) (networkId : Half) (version : BitVec 5)
  | wireEntityHeader (tsId onId : Half)
  | wireCrcTrailer (crc : Word)
  | wireTsHeader (start : BitVec 1) (pid : BitVec 13)
  | wirePointerField
deriving DecidableEq, Repr

/-- The rows whose words are read in an encoding of their own: a command frame (R70), an encoded descriptor
(R75), or one of the seven wire patterns, each of which is a format by itself (a pattern's bytes do not say
which pattern they are). -/
inductive Format where
  | cmd
  | tlv
  | wireDescriptor
  | wireLengthWord
  | wireSectionHeader
  | wireEntityHeader
  | wireCrcTrailer
  | wireTsHeader
  | wirePointerField
deriving DecidableEq, Repr

/-- The format a row's words are written in: the "format" column of spec/opcode_table.json, with the wire
patterns told apart. -/
def Instr.format : Instr → Format
  | .csrRd _ | .bufRd _ _ | .obufRd _ _ | .asmReset _ | .asmPut8 _ | .asmPut16 _ | .asmPut32 _
  | .asmPutn _ | .asmPutf _ _ | .asmRsv8 | .asmRsv12 _ | .asmPatch | .descSize _ _ | .descEnc _ _
  | .descDec _ _ | .secInit _ _ _ _ | .secAddd _ _ | .secAdde _ _ | .entAddd _ _ _ | .secSize
  | .secEnc _ | .crcCalc _ _ | .pktSize | .pktEnc _ => .cmd
  | .packNetworkName _ | .packServiceList _ | .packSatDelivery _ | .packCableDelivery _
  | .packLinkage _ | .packShortEvent _ | .packExtendedEvent _ | .packTerrDelivery _
  | .packMlNetworkName _ | .packMlComponent _ | .packPrivateDataSpec _ | .packFrequencyList _
  | .packDataBroadcast _ | .packExtension _ _ | .packExtensionT2 _ | .packOpaque _ _ => .tlv
  | .wireDescriptor _ _ => .wireDescriptor
  | .wireLengthWord _ _ => .wireLengthWord
  | .wireSectionHeader _ _ _ _ => .wireSectionHeader
  | .wireEntityHeader _ _ => .wireEntityHeader
  | .wireCrcTrailer _ => .wireCrcTrailer
  | .wireTsHeader _ _ => .wireTsHeader
  | .wirePointerField => .wirePointerField

end Sys2Proof
end

