-- ==== Sys2Proof/Machine/KindBytes.lean ====
section
/-! DEFINITION. The payload bytes of a typed value of every descriptor kind, read off the layout tables of spec
42_descriptor_kinds.md R150 to R166 (fields in wire order, most significant bit first, reserved bits 1: D36).
This is the wire layout; the command sequences of the PACK pseudo-instructions are in Machine/Pack.lean. -/

namespace Sys2Proof.Machine

/-- A byte string after its 8-bit length. -/
def lenBytes (t : List Byte) : List Byte := BitVec.ofNat 8 t.length :: t

/-- The three bytes of a language code. -/
def langBytes (l : Lang) : List Byte := [l.c0, l.c1, l.c2]

/-- R151. -/
def serviceListBytes (es : List ServiceEntry) : List Byte :=
  es.flatMap fun e => be16 e.serviceId ++ [e.serviceType]

/-- R152. -/
def satDeliveryBytes (v : SatDelivery) : List Byte :=
  be32 v.frequency ++ be16 v.orbitalPosition ++
  [(v.westEastFlag ++ v.polarization ++ v.rollOff ++ v.modulationSystem ++ v.modulationType :
      BitVec (1 + 2 + 2 + 1 + 2))] ++
  be32 (v.symbolRate ++ v.fecInner : BitVec (28 + 4))

/-- R153. -/
def cableDeliveryBytes (v : CableDelivery) : List Byte :=
  be32 v.frequency ++ be16 (0xFFF#12 ++ v.fecOuter : BitVec (12 + 4)) ++ [v.modulation] ++
  be32 (v.symbolRate ++ v.fecInner : BitVec (28 + 4))

/-- R154. -/
def terrDeliveryBytes (v : TerrDelivery) : List Byte :=
  be32 v.centreFrequency ++
  [(v.bandwidth ++ v.priority ++ v.timeSlicingIndicator ++ v.mpeFecIndicator ++ 0b11#2 :
      BitVec (3 + 1 + 1 + 1 + 2)),
   (v.constellation ++ v.hierarchyInformation ++ v.codeRateHp : BitVec (2 + 3 + 3)),
   (v.codeRateLp ++ v.guardInterval ++ v.transmissionMode ++ v.otherFrequencyFlag :
      BitVec (3 + 2 + 2 + 1))] ++
  be32 0xFFFFFFFF#32

/-- R156, hand-over sub-record. -/
def handOverBytes (v : HandOver) : List Byte :=
  [(v.handOverType ++ 0b111#3 ++ v.originType : BitVec (4 + 3 + 1))] ++
  be16Opt v.networkId ++ be16Opt v.initialServiceId

/-- R156, event sub-record. -/
def eventBytes (v : LinkEvent) : List Byte :=
  be16 v.targetEventId ++ [(v.targetListed ++ v.eventSimulcast ++ 0b111111#6 : BitVec (1 + 1 + 6))]

/-- R156, one target entry. -/
def targetBytes (v : LinkTarget) : List Byte :=
  be16 v.targetEventId ++
  [(v.targetListed ++ v.eventSimulcast ++ v.linkType ++ v.targetIdType ++ v.originalNetworkIdFlag ++
      v.serviceIdFlag : BitVec (1 + 1 + 2 + 2 + 1 + 1))] ++
  be16Opt v.userDefinedId ++ be16Opt v.targetTransportStreamId ++
  be16Opt v.targetOriginalNetworkId ++ be16Opt v.targetServiceId

/-- R156, the trailer. -/
def trailerBytes : LinkageTrailer → List Byte
  | .absent => []
  | .handOver v => handOverBytes v
  | .event v => eventBytes v
  | .targets vs => lenBytes (vs.flatMap targetBytes)

/-- R155. -/
def linkageBytes (v : Linkage) : List Byte :=
  be16 v.transportStreamId ++ be16 v.originalNetworkId ++ be16 v.serviceId ++ [v.linkageType] ++
  trailerBytes v.trailer ++ v.privateData

/-- R157. -/
def shortEventBytes (v : ShortEvent) : List Byte :=
  langBytes v.lang ++ lenBytes v.eventName ++ lenBytes v.text

/-- R158, one item. -/
def itemBytes (v : EventItem) : List Byte := lenBytes v.description ++ lenBytes v.item

/-- R158. -/
def extendedEventBytes (v : ExtendedEvent) : List Byte :=
  [(v.descriptorNumber ++ v.lastDescriptorNumber : BitVec (4 + 4))] ++ langBytes v.lang ++
  lenBytes (v.items.flatMap itemBytes) ++ lenBytes v.text

/-- R159, one per-language block. -/
def blockBytes (b : LangBlock) : List Byte := langBytes b.lang ++ lenBytes b.name

/-- R159. -/
def mlNetworkNameBytes (bs : List LangBlock) : List Byte := bs.flatMap blockBytes

/-- R160. -/
def mlComponentBytes (v : MlComponent) : List Byte := v.componentTag :: v.blocks.flatMap blockBytes

/-- R162. -/
def frequencyListBytes (v : FrequencyList) : List Byte :=
  (0b111111#6 ++ v.codingType : BitVec (6 + 2)) :: be32s v.frequencies

/-- R163. -/
def dataBroadcastBytes (v : DataBroadcast) : List Byte :=
  be16 v.dataBroadcastId ++ [v.componentTag] ++ lenBytes v.selector ++ langBytes v.lang ++ lenBytes v.text

/-- R165, one subcell. -/
def subcellBytes (s : T2Subcell) : List Byte := s.cellIdExtension :: be32 s.transposerFrequency

/-- R165, one cell. -/
def cellBytes (tfs : BitVec 1) (c : T2Cell) : List Byte :=
  be16 c.cellId ++ (if tfs = 1#1 then lenBytes (be32s c.frequencies) else be32s c.frequencies) ++
  lenBytes (c.subcells.flatMap subcellBytes)

/-- R165, the optional part. -/
def t2LongBytes (v : T2Long) : List Byte :=
  [(v.sisoMiso ++ v.bandwidth ++ 0b11#2 : BitVec (2 + 4 + 2)),
   (v.guardInterval ++ v.transmissionMode ++ v.otherFrequencyFlag ++ v.tfsFlag : BitVec (3 + 3 + 1 + 1))] ++
  v.cells.flatMap (cellBytes v.tfsFlag)

/-- R165, after the tag_extension byte. -/
def t2BodyBytes (v : T2Delivery) : List Byte :=
  [v.plpId] ++ be16 v.t2SystemId ++ (match v.long with | none => [] | some l => t2LongBytes l)

/-- The tag and payload that a pseudo-instruction encodes (R83, R132 `pack`); `none` for a row of another format. -/
def packed : Instr → Option (Byte × List Byte)
  | .packNetworkName text => some (0x40#8, text)
  | .packServiceList es => some (0x41#8, serviceListBytes es)
  | .packSatDelivery v => some (0x43#8, satDeliveryBytes v)
  | .packCableDelivery v => some (0x44#8, cableDeliveryBytes v)
  | .packLinkage v => some (0x4A#8, linkageBytes v)
  | .packShortEvent v => some (0x4D#8, shortEventBytes v)
  | .packExtendedEvent v => some (0x4E#8, extendedEventBytes v)
  | .packTerrDelivery v => some (0x5A#8, terrDeliveryBytes v)
  | .packMlNetworkName bs => some (0x5B#8, mlNetworkNameBytes bs)
  | .packMlComponent v => some (0x5E#8, mlComponentBytes v)
  | .packPrivateDataSpec v => some (0x5F#8, be32 v)
  | .packFrequencyList v => some (0x62#8, frequencyListBytes v)
  | .packDataBroadcast v => some (0x64#8, dataBroadcastBytes v)
  | .packExtension x body => some (0x7F#8, x :: body)
  | .packExtensionT2 v => some (0x7F#8, 0x04#8 :: t2BodyBytes v)
  | .packOpaque tag raw => some (tag, raw)
  | _ => none

end Sys2Proof.Machine
end

