-- ==== Sys2Proof/Machine/KindParse.lean ====
section
/-! DEFINITION. `parse` of every descriptor kind (spec 42_descriptor_kinds.md R150 to R166, 41_descriptor_codec.md
R132): the typed value a payload denotes, where its structure check succeeds. The block reports only that the
value exists (R139, D18); the functions are the model's, for the round-trip law R133. -/

namespace Sys2Proof.Machine

/-- The parts of a byte: field of `w` bits whose least significant bit is bit `lo` (R11 `v[hi:lo]`). -/
def field (b : Byte) (lo w : Nat) : BitVec w := b.extractLsb' lo w

/-- R151. -/
def parseServiceList : List Byte → Option (List ServiceEntry)
  | [] => some []
  | a :: b :: t :: r => (parseServiceList r).map (⟨u16 a b, t⟩ :: ·)
  | _ => none

/-- R152. -/
def parseSatDelivery : List Byte → Option SatDelivery
  | [a, b, c, d, e, f, g, h, i, j, k] => some {
      frequency := u32 a b c d
      orbitalPosition := u16 e f
      westEastFlag := field g 7 1
      polarization := field g 5 2
      rollOff := field g 3 2
      modulationSystem := field g 2 1
      modulationType := field g 0 2
      symbolRate := (u32 h i j k).extractLsb' 4 28
      fecInner := field k 0 4 }
  | _ => none

/-- R153. -/
def parseCableDelivery : List Byte → Option CableDelivery
  | [a, b, c, d, _, f, g, h, i, j, k] => some {
      frequency := u32 a b c d
      fecOuter := field f 0 4
      modulation := g
      symbolRate := (u32 h i j k).extractLsb' 4 28
      fecInner := field k 0 4 }
  | _ => none

/-- R154. -/
def parseTerrDelivery : List Byte → Option TerrDelivery
  | [a, b, c, d, e, f, g, _, _, _, _] => some {
      centreFrequency := u32 a b c d
      bandwidth := field e 5 3
      priority := field e 4 1
      timeSlicingIndicator := field e 3 1
      mpeFecIndicator := field e 2 1
      constellation := field f 6 2
      hierarchyInformation := field f 3 3
      codeRateHp := field f 0 3
      codeRateLp := field g 5 3
      guardInterval := field g 3 2
      transmissionMode := field g 1 2
      otherFrequencyFlag := field g 0 1 }
  | _ => none

/-- R156, hand-over sub-record: its value and what is left. -/
def parseHandOver : List Byte → Option (HandOver × List Byte)
  | [] => none
  | f :: r =>
    let hot := field f 4 4
    let ot := field f 0 1
    (take16If (1 ≤ hot.toNat ∧ hot.toNat ≤ 3) r).bind fun x =>
    (take16If (ot = 0#1) x.2).bind fun y =>
    some (⟨hot, ot, x.1, y.1⟩, y.2)

/-- R156, event sub-record: its value and what is left. -/
def parseEvent : List Byte → Option (LinkEvent × List Byte)
  | a :: b :: f :: r => some (⟨u16 a b, field f 7 1, field f 6 1⟩, r)
  | _ => none

/-- R156, one target entry: its value and what is left. -/
def parseTarget : List Byte → Option (LinkTarget × List Byte)
  | a :: b :: f :: r =>
    let tit := field f 2 2
    let onf := field f 1 1
    let sif := field f 0 1
    (take16If (tit = 3#2) r).bind fun u =>
    (take16If (tit = 1#2) u.2).bind fun t =>
    (take16If (tit ≠ 3#2 ∧ onf = 1#1) t.2).bind fun o =>
    (take16If (tit ≠ 3#2 ∧ sif = 1#1) o.2).bind fun s =>
    some ({ targetEventId := u16 a b, targetListed := field f 7 1, eventSimulcast := field f 6 1,
            linkType := field f 4 2, targetIdType := tit, originalNetworkIdFlag := onf,
            serviceIdFlag := sif, userDefinedId := u.1, targetTransportStreamId := t.1,
            targetOriginalNetworkId := o.1, targetServiceId := s.1 }, s.2)
  | _ => none

/-- R156, the target list up to its declared end. -/
def parseTargetLoop : Nat → List Byte → Option (List LinkTarget)
  | _, [] => some []
  | 0, _ :: _ => none
  | k + 1, x :: r => (parseTarget (x :: r)).bind fun e => (parseTargetLoop k e.2).map (e.1 :: ·)

/-- R156, the target list with its loop_length byte, and what is left. -/
def parseTargets : List Byte → Option (List LinkTarget × List Byte)
  | [] => none
  | ll :: r =>
    (takeN ll.toNat r).bind fun x => (parseTargetLoop ll.toNat x.1).map fun ts => (ts, x.2)

/-- R155, the trailer that linkage_type selects, and the private data that remains. -/
def parseTrailer (lt : Byte) (r : List Byte) : Option (LinkageTrailer × List Byte) :=
  if lt = 0x08#8 then (parseHandOver r).map fun x => (.handOver x.1, x.2)
  else if lt = 0x0D#8 then (parseEvent r).map fun x => (.event x.1, x.2)
  else if 0x0E ≤ lt.toNat ∧ lt.toNat ≤ 0x1F then (parseTargets r).map fun x => (.targets x.1, x.2)
  else some (.absent, r)

/-- R155. -/
def parseLinkage : List Byte → Option Linkage
  | a :: b :: c :: d :: e :: f :: lt :: r =>
    (parseTrailer lt r).map fun x => ⟨u16 a b, u16 c d, u16 e f, lt, x.1, x.2⟩
  | _ => none

/-- A byte string after its 8-bit length, and what is left. -/
def parseText : List Byte → Option (List Byte × List Byte)
  | [] => none
  | l :: r => takeN l.toNat r

/-- A byte string after its 8-bit length that must end the region. -/
def parseLastText (r : List Byte) : Option (List Byte) :=
  (parseText r).bind fun x => if x.2 = [] then some x.1 else none

/-- R157. -/
def parseShortEvent : List Byte → Option ShortEvent
  | a :: b :: c :: r =>
    (parseText r).bind fun x => (parseLastText x.2).map fun t => ⟨⟨a, b, c⟩, x.1, t⟩
  | _ => none

/-- R158, the items up to the end of their budget. -/
def parseItemLoop : Nat → List Byte → Option (List EventItem)
  | _, [] => some []
  | 0, _ :: _ => none
  | k + 1, x :: r =>
    (parseText (x :: r)).bind fun d => (parseText d.2).bind fun i =>
    (parseItemLoop k i.2).map (⟨d.1, i.1⟩ :: ·)

/-- R158. -/
def parseExtendedEvent : List Byte → Option ExtendedEvent
  | a :: b :: c :: d :: r =>
    (parseText r).bind fun x =>
    (parseItemLoop x.1.length x.1).bind fun items =>
    (parseLastText x.2).map fun t => ⟨field a 4 4, field a 0 4, ⟨b, c, d⟩, items, t⟩
  | _ => none

/-- R159, the per-language blocks. -/
def parseBlockLoop : Nat → List Byte → Option (List LangBlock)
  | _, [] => some []
  | k + 1, a :: b :: c :: r =>
    (parseText r).bind fun x => (parseBlockLoop k x.2).map (⟨⟨a, b, c⟩, x.1⟩ :: ·)
  | _, _ => none

/-- R159. -/
def parseMlNetworkName (p : List Byte) : Option (List LangBlock) := parseBlockLoop p.length p

/-- R160. -/
def parseMlComponent : List Byte → Option MlComponent
  | [] => none
  | t :: r => (parseBlockLoop r.length r).map fun bs => ⟨t, bs⟩

/-- R161. -/
def parsePrivateDataSpec : List Byte → Option Word
  | [a, b, c, d] => some (u32 a b c d)
  | _ => none

/-- R162. -/
def parseFrequencyList : List Byte → Option FrequencyList
  | [] => none
  | c :: r => (words32 r).map fun fs => ⟨field c 0 2, fs⟩

/-- R163. -/
def parseDataBroadcast : List Byte → Option DataBroadcast
  | a :: b :: c :: r =>
    (parseText r).bind fun s =>
    match s.2 with
    | x :: y :: z :: r' => (parseLastText r').map fun t => ⟨u16 a b, c, s.1, ⟨x, y, z⟩, t⟩
    | _ => none
  | _ => none

/-- R165, the frequencies of one cell, and what is left. -/
def parseCellFrequencies (tfs : Bool) (r : List Byte) : Option (List Word × List Byte) :=
  (if tfs then parseText r else takeN 4 r).bind fun x => (words32 x.1).map fun fs => (fs, x.2)

/-- R165, subcells of 5 bytes each. -/
def parseSubcells : List Byte → Option (List T2Subcell)
  | [] => some []
  | x :: a :: b :: c :: d :: r => (parseSubcells r).map (⟨x, u32 a b c d⟩ :: ·)
  | _ => none

/-- R165, the cells up to the end of the descriptor. -/
def parseCellLoop (tfs : Bool) : Nat → List Byte → Option (List T2Cell)
  | _, [] => some []
  | k + 1, a :: b :: r =>
    (parseCellFrequencies tfs r).bind fun f =>
    (parseText f.2).bind fun s =>
    (parseSubcells s.1).bind fun subs =>
    (parseCellLoop tfs k s.2).map (⟨u16 a b, f.1, subs⟩ :: ·)
  | _, _ => none

/-- R165, on the whole payload (its first byte is the tag_extension). -/
def parseT2 : List Byte → Option T2Delivery
  | [_, p, a, b] => some ⟨p, u16 a b, none⟩
  | _ :: p :: a :: b :: f :: g :: r =>
    (parseCellLoop (g.getLsbD 0) r.length r).map fun cs =>
      ⟨p, u16 a b, some {
        sisoMiso := field f 6 2
        bandwidth := field f 2 4
        guardInterval := field g 5 3
        transmissionMode := field g 2 3
        otherFrequencyFlag := field g 1 1
        tfsFlag := field g 0 1
        cells := cs }⟩
  | _ => none

/-- `parse` of the kind that `tag` selects (R83, R132), as the pseudo-instruction whose operand the typed value
is. Defined for a tag that R83 lists or that is 0x80 or above, and a payload that the kind's layout admits. -/
def parseKind (tag : Byte) (p : List Byte) : Option Instr :=
  match tag.toNat with
  | 0x40 => some (.packNetworkName p)
  | 0x41 => (parseServiceList p).map .packServiceList
  | 0x43 => (parseSatDelivery p).map .packSatDelivery
  | 0x44 => (parseCableDelivery p).map .packCableDelivery
  | 0x4A => (parseLinkage p).map .packLinkage
  | 0x4D => (parseShortEvent p).map .packShortEvent
  | 0x4E => (parseExtendedEvent p).map .packExtendedEvent
  | 0x5A => (parseTerrDelivery p).map .packTerrDelivery
  | 0x5B => (parseMlNetworkName p).map .packMlNetworkName
  | 0x5E => (parseMlComponent p).map .packMlComponent
  | 0x5F => (parsePrivateDataSpec p).map .packPrivateDataSpec
  | 0x62 => (parseFrequencyList p).map .packFrequencyList
  | 0x64 => (parseDataBroadcast p).map .packDataBroadcast
  | 0x7F =>
    match p with
    | [] => none
    | x :: r => if x = 0x04#8 then (parseT2 p).map .packExtensionT2 else some (.packExtension x r)
  | n => if 0x80 ≤ n then some (.packOpaque tag p) else none

end Sys2Proof.Machine
end

