-- ==== Sys2Proof/Decode.lean ====
section
/-! DEFINITION. The decoder and the encoder. Three kinds of words are read: command frames (30_encoding.md R70,
R73, R74), encoded descriptors (R75, R83 to R85) and the wire patterns (R75 to R77, R79 to R81 and the
pointer_field of R252). Every decoder is total and rejects by name. Only command frames reach the block; the
other two are the words of the pseudo-instructions and of what the block emits. -/

namespace Sys2Proof

/-- Why bytes are not the words of an instruction. -/
inductive DecodeErr where
  /-- The opcode byte is reserved (R74): BadCommand(1). -/
  | reservedOpcode
  /-- The frame is empty or not of the length its opcode and count determine (R70): BadCommand(8). -/
  | badFrame
  /-- Not one encoded descriptor: no tag or length byte, or the length does not reconcile (R75, R139). -/
  | badLength
  /-- A tag below 0x80 that is not registered (R84). -/
  | unknownTag
  /-- The payload does not have its kind's layout (R132). -/
  | malformedPayload
  /-- The bytes do not have the wire pattern's length or fixed bits. -/
  | badPattern
deriving DecidableEq, Repr

/-! ### Command frames -/

/-- A `bytes` operand (R70): a u16 count n followed by exactly n bytes, up to the end of the frame. -/
def bytesOperand : List Byte → Option (List Byte)
  | a :: b :: r => if r.length = (u16 a b).toNat then some r else none
  | _ => none

/-- A command whose last operand is a `bytes` operand; its length must be the one the count determines. -/
def withBytes (r : List Byte) (f : List Byte → Instr) : Except DecodeErr Instr :=
  match bytesOperand r with
  | some p => .ok (f p)
  | none => .error .badFrame

/-- The frame decoder (R70, R73, R74). Operand ranges that depend on no state (R72) are the command's first
check (Machine/Operands.lean), so every frame of the right length is an instruction. -/
def decodeFrame : List Byte → Except DecodeErr Instr
  | [] => .error .badFrame
  | op :: r =>
    match op.toNat with
    | 0x01 => match r with | [n] => .ok (.csrRd n) | _ => .error .badFrame
    | 0x02 => match r with | [a, b, c, d] => .ok (.bufRd (u16 a b) (u16 c d)) | _ => .error .badFrame
    | 0x03 => match r with | [a, b, c, d] => .ok (.obufRd (u16 a b) (u16 c d)) | _ => .error .badFrame
    | 0x10 => match r with | [a, b] => .ok (.asmReset (u16 a b)) | _ => .error .badFrame
    | 0x11 => match r with | [v] => .ok (.asmPut8 v) | _ => .error .badFrame
    | 0x12 => match r with | [a, b] => .ok (.asmPut16 (u16 a b)) | _ => .error .badFrame
    | 0x13 => match r with | [a, b, c, d] => .ok (.asmPut32 (u32 a b c d)) | _ => .error .badFrame
    | 0x14 => withBytes r .asmPutn
    | 0x15 => match r with | [w, a, b, c, d] => .ok (.asmPutf w (u32 a b c d)) | _ => .error .badFrame
    | 0x16 => match r with | [] => .ok .asmRsv8 | _ => .error .badFrame
    | 0x17 => match r with | [hi] => .ok (.asmRsv12 hi) | _ => .error .badFrame
    | 0x18 => match r with | [] => .ok .asmPatch | _ => .error .badFrame
    | 0x20 => match r with | tag :: r' => withBytes r' (.descSize tag) | _ => .error .badFrame
    | 0x21 => match r with | tag :: r' => withBytes r' (.descEnc tag) | _ => .error .badFrame
    | 0x22 => match r with | k :: r' => withBytes r' (.descDec k) | _ => .error .badFrame
    | 0x30 =>
      match r with
      | [t, a, b, v, c, d] => .ok (.secInit t (u16 a b) v (u16 c d))
      | _ => .error .badFrame
    | 0x31 => match r with | tag :: r' => withBytes r' (.secAddd tag) | _ => .error .badFrame
    | 0x32 => match r with | [a, b, c, d] => .ok (.secAdde (u16 a b) (u16 c d)) | _ => .error .badFrame
    | 0x33 =>
      match r with
      | a :: b :: tag :: r' => withBytes r' (.entAddd (u16 a b) tag)
      | _ => .error .badFrame
    | 0x34 => match r with | [] => .ok .secSize | _ => .error .badFrame
    | 0x35 => match r with | [a, b] => .ok (.secEnc (u16 a b)) | _ => .error .badFrame
    | 0x40 => match r with | [a, b, c, d] => .ok (.crcCalc (u16 a b) (u16 c d)) | _ => .error .badFrame
    | 0x50 => match r with | [] => .ok .pktSize | _ => .error .badFrame
    | 0x51 => match r with | [a, b] => .ok (.pktEnc (u16 a b)) | _ => .error .badFrame
    | _ => .error .reservedOpcode

/-! ### Encoded descriptors -/

/-- The decoder of one encoded descriptor (R75, R83 to R85): the tag selects the kind, the length byte must
reconcile with the bytes given, and the payload is read by the kind's `parse`. -/
def decodeTlv : List Byte → Except DecodeErr Instr
  | tag :: len :: p =>
    if p.length ≠ len.toNat then .error .badLength
    else if tag.toNat < Config.privateTagMin ∧
        tag ∉ [0x40#8, 0x41#8, 0x43#8, 0x44#8, 0x4A#8, 0x4D#8, 0x4E#8, 0x5A#8, 0x5B#8, 0x5E#8, 0x5F#8,
          0x62#8, 0x64#8, 0x7F#8] then .error .unknownTag
    else
      match Machine.parseKind tag p with
      | some i => .ok i
      | none => .error .malformedPayload
  | _ => .error .badLength

/-! ### Wire patterns -/

/-- R76: `flags[3:0] :: count[11:8]`, `count[7:0]`. -/
def lengthWordBytes (flags : BitVec 4) (count : BitVec 12) : List Byte :=
  be16 (flags ++ count : BitVec (4 + 12))

/-- R77: the 8 bytes of the section header, with the fixed bits of R7. -/
def sectionHeaderBytes (tableId : Byte) (len : BitVec 12) (networkId : Half) (version : BitVec 5) : List Byte :=
  [tableId] ++ lengthWordBytes Config.secFlags len ++ be16 networkId ++
  [(Config.verRsv ++ version ++ Config.cni : BitVec (2 + 5 + 1)), Config.sectionNumber,
    Config.lastSectionNumber]

/-- R79: the fixed 4-byte header of an entity record. -/
def entityHeaderBytes (tsId onId : Half) : List Byte := be16 tsId ++ be16 onId

/-- R81: the 4-byte header of a transport packet; `start` is the start-indicator bit. -/
def tsHeaderBytes (start : BitVec 1) (pid : BitVec 13) : List Byte :=
  [Config.sync] ++ be16 (Config.tsTei ++ start ++ Config.tsPrio ++ pid : BitVec (1 + 1 + 1 + 13)) ++
  [(Config.tsScr ++ Config.tsAfc ++ Config.cc : BitVec (2 + 2 + 4))]

/-- R75: the two bytes in front of a payload. -/
def decodeWireDescriptor : List Byte → Except DecodeErr Instr
  | [t, l] => .ok (.wireDescriptor t l)
  | _ => .error .badPattern

/-- R76. -/
def decodeWireLengthWord : List Byte → Except DecodeErr Instr
  | [a, b] => .ok (.wireLengthWord (a.extractLsb' 4 4) ((a.extractLsb' 0 4 ++ b : BitVec (4 + 8))))
  | _ => .error .badPattern

/-- R77; the fixed bits must have the values of R7. -/
def decodeWireSectionHeader : List Byte → Except DecodeErr Instr
  | [t, a, b, c, d, v, n, l] =>
    if a.extractLsb' 4 4 = Config.secFlags ∧ v.extractLsb' 6 2 = Config.verRsv ∧
        v.extractLsb' 0 1 = Config.cni ∧ n = Config.sectionNumber ∧ l = Config.lastSectionNumber then
      .ok (.wireSectionHeader t (a.extractLsb' 0 4 ++ b : BitVec (4 + 8)) (u16 c d) (v.extractLsb' 1 5))
    else .error .badPattern
  | _ => .error .badPattern

/-- R79. -/
def decodeWireEntityHeader : List Byte → Except DecodeErr Instr
  | [a, b, c, d] => .ok (.wireEntityHeader (u16 a b) (u16 c d))
  | _ => .error .badPattern

/-- R80. -/
def decodeWireCrcTrailer : List Byte → Except DecodeErr Instr
  | [a, b, c, d] => .ok (.wireCrcTrailer (u32 a b c d))
  | _ => .error .badPattern

/-- R81; the fixed bits must have the values of R6 and R7. -/
def decodeWireTsHeader : List Byte → Except DecodeErr Instr
  | [s, a, b, x] =>
    if s = Config.sync ∧ a.extractLsb' 7 1 = Config.tsTei ∧ a.extractLsb' 5 1 = Config.tsPrio ∧
        x = (Config.tsScr ++ Config.tsAfc ++ Config.cc : BitVec (2 + 2 + 4)) then
      .ok (.wireTsHeader (a.extractLsb' 6 1) (a.extractLsb' 0 5 ++ b : BitVec (5 + 8)))
    else .error .badPattern
  | _ => .error .badPattern

/-- R252, the pointer_field byte. -/
def decodeWirePointerField : List Byte → Except DecodeErr Instr
  | [b] => if b = Config.pointerField then .ok .wirePointerField else .error .badPattern
  | _ => .error .badPattern

/-- The decoder: bytes in a given format. -/
def decode : Format → List Byte → Except DecodeErr Instr
  | .cmd => decodeFrame
  | .tlv => decodeTlv
  | .wireDescriptor => decodeWireDescriptor
  | .wireLengthWord => decodeWireLengthWord
  | .wireSectionHeader => decodeWireSectionHeader
  | .wireEntityHeader => decodeWireEntityHeader
  | .wireCrcTrailer => decodeWireCrcTrailer
  | .wireTsHeader => decodeWireTsHeader
  | .wirePointerField => decodeWirePointerField

/-! ### The encoder -/

/-- A `bytes` operand (R70): the u16 count, then the bytes. -/
def encodeBytes (p : List Byte) : List Byte := be16 (BitVec.ofNat 16 p.length) ++ p

/-- One encoded descriptor `[tag, len(payload)] ++ payload` (R75, R130). -/
def encodeTlv (x : Byte × List Byte) : List Byte := x.1 :: BitVec.ofNat 8 x.2.length :: x.2

/-- The words of an instruction, in its own format. -/
def encode : Instr → List Byte
  | .csrRd n => [0x01#8, n]
  | .bufRd off n => 0x02#8 :: (be16 off ++ be16 n)
  | .obufRd off n => 0x03#8 :: (be16 off ++ be16 n)
  | .asmReset cap => 0x10#8 :: be16 cap
  | .asmPut8 v => [0x11#8, v]
  | .asmPut16 v => 0x12#8 :: be16 v
  | .asmPut32 v => 0x13#8 :: be32 v
  | .asmPutn b => 0x14#8 :: encodeBytes b
  | .asmPutf w v => 0x15#8 :: w :: be32 v
  | .asmRsv8 => [0x16#8]
  | .asmRsv12 hi => [0x17#8, hi]
  | .asmPatch => [0x18#8]
  | .descSize tag p => 0x20#8 :: tag :: encodeBytes p
  | .descEnc tag p => 0x21#8 :: tag :: encodeBytes p
  | .descDec k b => 0x22#8 :: k :: encodeBytes b
  | .secInit t nid v pid => 0x30#8 :: t :: (be16 nid ++ v :: be16 pid)
  | .secAddd tag p => 0x31#8 :: tag :: encodeBytes p
  | .secAdde ts on => 0x32#8 :: (be16 ts ++ be16 on)
  | .entAddd h tag p => 0x33#8 :: (be16 h ++ tag :: encodeBytes p)
  | .secSize => [0x34#8]
  | .secEnc cap => 0x35#8 :: be16 cap
  | .crcCalc off len => 0x40#8 :: (be16 off ++ be16 len)
  | .pktSize => [0x50#8]
  | .pktEnc cap => 0x51#8 :: be16 cap
  | .packNetworkName text => encodeTlv (0x40#8, text)
  | .packServiceList es => encodeTlv (0x41#8, Machine.serviceListBytes es)
  | .packSatDelivery v => encodeTlv (0x43#8, Machine.satDeliveryBytes v)
  | .packCableDelivery v => encodeTlv (0x44#8, Machine.cableDeliveryBytes v)
  | .packLinkage v => encodeTlv (0x4A#8, Machine.linkageBytes v)
  | .packShortEvent v => encodeTlv (0x4D#8, Machine.shortEventBytes v)
  | .packExtendedEvent v => encodeTlv (0x4E#8, Machine.extendedEventBytes v)
  | .packTerrDelivery v => encodeTlv (0x5A#8, Machine.terrDeliveryBytes v)
  | .packMlNetworkName bs => encodeTlv (0x5B#8, Machine.mlNetworkNameBytes bs)
  | .packMlComponent v => encodeTlv (0x5E#8, Machine.mlComponentBytes v)
  | .packPrivateDataSpec v => encodeTlv (0x5F#8, be32 v)
  | .packFrequencyList v => encodeTlv (0x62#8, Machine.frequencyListBytes v)
  | .packDataBroadcast v => encodeTlv (0x64#8, Machine.dataBroadcastBytes v)
  | .packExtension x body => encodeTlv (0x7F#8, x :: body)
  | .packExtensionT2 v => encodeTlv (0x7F#8, 0x04#8 :: Machine.t2BodyBytes v)
  | .packOpaque tag raw => encodeTlv (tag, raw)
  | .wireDescriptor tag length => [tag, length]
  | .wireLengthWord flags count => lengthWordBytes flags count
  | .wireSectionHeader t len nid v => sectionHeaderBytes t len nid v
  | .wireEntityHeader ts on => entityHeaderBytes ts on
  | .wireCrcTrailer crc => be32 crc
  | .wireTsHeader s pid => tsHeaderBytes s pid
  | .wirePointerField => [Config.pointerField]

/-! ### The words of the opcode table -/

/-- The number of operand bytes of a command whose `bytes` operand, if it has one, is empty, or `none` for a
byte that is no opcode (R73). -/
def operandBytes (op : Nat) : Option Nat :=
  match op with
  | 0x01 | 0x11 | 0x17 => some 1
  | 0x10 | 0x12 | 0x14 | 0x35 | 0x51 => some 2
  | 0x20 | 0x21 | 0x22 | 0x31 => some 3
  | 0x02 | 0x03 | 0x13 | 0x32 | 0x40 => some 4
  | 0x15 | 0x33 => some 5
  | 0x30 => some 6
  | 0x16 | 0x18 | 0x34 | 0x50 => some 0
  | _ => none

/-- The commands that end in a `bytes` operand (R73). -/
def hasBytes (op : Nat) : Bool :=
  op == 0x14 || op == 0x20 || op == 0x21 || op == 0x22 || op == 0x31 || op == 0x33

/-- The least payload of a kind (R150 to R166); `none` for a tag that selects no kind. -/
def leastPayload (tag ext : Nat) : Option Nat :=
  match tag with
  | 0x40 | 0x41 | 0x5B => some 0
  | 0x43 | 0x44 | 0x5A => some 11
  | 0x4A => some 7
  | 0x4D => some 5
  | 0x4E => some 6
  | 0x5E | 0x62 => some 1
  | 0x5F => some 4
  | 0x64 => some 8
  | 0x7F => some (if ext = 0x04 then 4 else 1)
  | n => if 0x80 ≤ n ∧ n ≤ 0xFF then some 0 else none

/-- Bytes followed by zeros up to `n` bytes, and no longer than that. -/
def padTo (n : Nat) (bs : List Byte) : List Byte := (bs ++ List.replicate n 0#8).take n

/-- The words of a row that the table gives one byte, or the three bytes of the T2 extension: a frame where the
first byte is an opcode, else an encoded descriptor where it selects a kind, else the pointer_field byte. A frame is
continued with zeros to the length its opcode and count determine (R70); an encoded descriptor is continued with
zeros to the least payload of its kind, its length byte being that length, which the table does not match. -/
def selectedImage (op : Byte) (r : List Byte) : Format × List Byte :=
  match operandBytes op.toNat with
  | some k =>
    let n := if hasBytes op.toNat then
        (match (padTo k r).drop (k - 2) with | [a, b] => (u16 a b).toNat | _ => 0)
      else 0
    (.cmd, op :: padTo (k + n) r)
  | none =>
    match leastPayload op.toNat ((r.getD 1 0#8).toNat) with
    | some k =>
      let p := padTo (max k (r.length - 1)) (r.drop 1)
      (.tlv, op :: BitVec.ofNat 8 p.length :: p)
    | none => (if r.length = 0 then .wirePointerField else .cmd, op :: r)

/-- The words of a table row, a number of `nbits` bits whose first byte is the most significant one, as the table
numbers them. Only wire patterns have 16, 32 or 64 bits there; how rows of one width are told apart is said in log
entry 7. -/
def tableImage (nbits w : Nat) : Format × List Byte :=
  match beBytes (nbits / 8) w with
  | [] => (.cmd, [])
  | [a, b] => (if a.extractLsb' 4 4 = Config.rsv4 then .wireLengthWord else .wireDescriptor, [a, b])
  | [a, b, c, d] => (if a = Config.sync then .wireTsHeader else .wireEntityHeader, [a, b, c, d])
  | [t, a, b, c, d, v, n, l] => (.wireSectionHeader, [t, a, b, c, d, v, n, l])
  | op :: r => selectedImage op r

/-- The instruction the decoder reads from the words of a row of spec/opcode_table.json (R73, R83). -/
def decodeTableWord (nbits w : Nat) : Option Instr :=
  match decode (tableImage nbits w).1 (tableImage nbits w).2 with
  | .ok i => some i
  | .error _ => none

end Sys2Proof
end

