-- ==== Sys2Proof/Machine/State.lean ====
section
/-! DEFINITION. The state of the block as plain data (spec 10_state.md R20 to R31, R36), the errors of its
commands (60_exceptions.md R270 to R276) and the reasons a step can stop. -/

namespace Sys2Proof.Machine

/-- The reasons of a BadCommand (R276). -/
inductive Reason where
  | reservedOpcode
  | pendingBits
  | operandRange
  | patchFull
  | patchEmpty
  | unwrittenRead
  | outOfSequence
  | badFrame
deriving DecidableEq, Repr

/-- The error kinds 1 to 6 of R270, each with its information value. An error is not a stop: it ends the
command and is taken by `Machine.raiseErr` (R278), after which the block accepts the next command. -/
inductive Err where
  | malformedInput (n : Nat)
  | unknownTag (tag : Byte)
  | bufferTooSmall (n : Nat)
  | sectionTooLarge (n : Nat)
  | tagMismatch (found : Byte)
  | badCommand (r : Reason)
deriving DecidableEq, Repr

/-- What stops the machine for good. The spec gives the block no such event (R279, R307): both faults can be
raised only from a state that breaks an invariant of the spec, which no run from reset reaches. -/
inductive Fault where
  /-- Raised by BUF.RD, OBUF.RD, CRC.CALC, ASM.PATCH, SEC.ENC and PKT.ENC where their own checks have passed
  and a cell they read is unwritten all the same (R26, R30 or R258 is broken). Safe: the machine stops. -/
  | unwrittenCell
  /-- Raised by a writing command where its own checks have passed and the address is outside the buffer
  (R26 or R30 is broken). Safe: the machine stops. -/
  | noSuchCell
deriving DecidableEq, Repr

/-- What the model declines to run. Every instruction of the table has its meaning, so no step refuses. -/
inductive Refusal where
  /-- Raised by an arm of `exec` whose instruction has no meaning yet; there is none. Safe. -/
  | notModelled (mnemonic : String)
deriving DecidableEq, Repr

/-- A descriptor: tag and payload; the declared length is always computed (R23). -/
structure Descriptor where
  tag : Byte
  payload : List Byte
deriving DecidableEq, Repr

/-- A nested entity (R22). -/
structure Entity where
  tsId : Half
  onId : Half
  descs : List Descriptor
deriving DecidableEq, Repr

/-- The kind of a reserved length field (R27). -/
inductive FieldKind where
  | w8
  | w12
deriving DecidableEq, Repr

/-- An entry of the patch stack (R27). -/
structure PatchEntry where
  off : Half
  kind : FieldKind
deriving DecidableEq, Repr

/-- A byte memory: (address, byte) pairs. An address that is not listed is an *unwritten* cell (R26, R30). -/
abbrev Memory := List Host.Cell

/-- The canonical form of a memory: addresses strictly rising. (No entry can equal what an unlisted address
reads as, since that is the mark *unwritten* and not a byte.) -/
abbrev Memory.wf (m : Memory) : Prop := m.Pairwise (fun c d => c.1 < d.1)

/-- What the host or the platform puts on the command port. The model's own input (log entry 4). -/
inductive PortItem where
  /-- A command frame with its true length (R70). -/
  | frame (bytes : List Byte)
  /-- A line of a listing that need not be one frame: a pseudo-instruction (R96) or a wire pattern. -/
  | listing (i : Instr)
  /-- The pseudo-instruction CRC.APPEND (R96), which has no row in the opcode table. -/
  | crcAppend
  /-- The platform asserts reset (R300). -/
  | reset
deriving DecidableEq, Repr

/-- The state of the block (R20) and of the two sides of its command port. -/
structure State where
  /-- S.valid (R21). -/
  valid : Bool
  /-- S.table_id (R21). -/
  tableId : Byte
  /-- S.network_id (R21). -/
  networkId : Half
  /-- S.version (R21). -/
  version : BitVec 5
  /-- S.pid (R21). -/
  pid : BitVec 13
  /-- S.descs, in order of addition (R22), unbounded (log entry 3). -/
  descs : List Descriptor
  /-- S.ents, in order of addition; a handle is an index into it (R22). -/
  ents : List Entity
  /-- BUF (R26). -/
  buf : Memory
  /-- WP (R26). -/
  wp : Half
  /-- CAP (R26). -/
  cap : Half
  /-- PSTK, the top of the stack first (R27). -/
  pstk : List PatchEntry
  /-- BACC.nb (R28). -/
  nb : BitVec 3
  /-- BACC.bv (R28). -/
  bv : BitVec 7
  /-- ENC_VALID (R29). -/
  encValid : Bool
  /-- ENC_LEN (R29). -/
  encLen : Half
  /-- OBUF (R30). -/
  obuf : Memory
  /-- OLEN (R30). -/
  olen : Half
  /-- STATUS (R31). -/
  status : BitVec 3
  /-- RESULT (R31). -/
  result : Word
  /-- The model's own: the bytes of the latest response on the command port (R71, log entry 5). -/
  resp : List Byte
  /-- The model's own: what waits on the command port, oldest first (R70, log entry 4). -/
  port : List PortItem
deriving DecidableEq, Repr

/-- The machine right after reset (R36, R300): everything zero, empty or unwritten. `resp` and `port`, which
are the model's own, are empty (log entries 4 and 5). -/
def State.reset : State where
  valid := false
  tableId := 0#8
  networkId := 0#16
  version := 0#5
  pid := 0#13
  descs := []
  ents := []
  buf := []
  wp := 0#16
  cap := 0#16
  pstk := []
  nb := 0#3
  bv := 0#7
  encValid := false
  encLen := 0#16
  obuf := []
  olen := 0#16
  status := 0#3
  result := 0#32
  resp := []
  port := []

end Sys2Proof.Machine
end

