-- ==== Sys2Proof/Machine/Flags.lean ====
section
/-! DEFINITION. The block's flags and status words: the alignment flag and the status codes (spec 10_state.md
R25, 60_exceptions.md R270, R276) and the numbered view of the state, CSR 0 to 12 (10_state.md R32). The block
has no arithmetic condition codes (R25). -/

namespace Sys2Proof.Machine

/-- BUF ends on a byte boundary: BACC.nb = 0 (R25, R28). -/
abbrev aligned (s : State) : Prop := s.nb = 0#3

/-- PDEPTH = len(PSTK) (R27). -/
def pdepth (s : State) : Nat := s.pstk.length

/-- `fsize` (R27): the bytes of a reserved field. -/
def fsize : FieldKind → Nat
  | .w8 => 1
  | .w12 => 2

/-- The reason code of a BadCommand (R276). -/
def reasonCode : Reason → Nat
  | .reservedOpcode => 1
  | .pendingBits => 2
  | .operandRange => 3
  | .patchFull => 4
  | .patchEmpty => 5
  | .unwrittenRead => 6
  | .outOfSequence => 7
  | .badFrame => 8

/-- The status code of an error kind (R270). -/
def statusCode : Err → BitVec 3
  | .malformedInput _ => 1#3
  | .unknownTag _ => 2#3
  | .bufferTooSmall _ => 3#3
  | .sectionTooLarge _ => 4#3
  | .tagMismatch _ => 5#3
  | .badCommand _ => 6#3

/-- The information value of an error (R270, R272 to R276). -/
def errInfo : Err → Nat
  | .malformedInput n => n
  | .unknownTag t => t.toNat
  | .bufferTooSmall n => n
  | .sectionTooLarge n => n
  | .tagMismatch b => b.toNat
  | .badCommand r => reasonCode r

/-- A flag as one bit. -/
def flagBit (b : Bool) : BitVec 1 := if b then 1#1 else 0#1

/-- CSR n (R32); `none` for the reserved numbers 13 to 255. Bits not listed read as 0.
PDEPTH is at most 8 in every state a run reaches (R27; log entry 16). -/
def csr (n : Nat) (s : State) : Option Word :=
  match n with
  | 0 => some Config.blockId
  | 1 => some (s.status.setWidth 32)
  | 2 => some s.result
  | 3 => some (s.wp.setWidth 32)
  | 4 => some (s.cap.setWidth 32)
  | 5 => some ((BitVec.ofNat 8 (pdepth s)).setWidth 32)
  | 6 => some ((s.nb ++ s.bv.setWidth 8 : BitVec (3 + 8)).setWidth 32)
  | 7 => some (flagBit s.encValid ++ 0#15 ++ s.encLen : BitVec (1 + 15 + 16))
  | 8 => some (s.olen.setWidth 32)
  | 9 => some (flagBit s.valid ++ 0#2 ++ s.version ++ s.tableId ++ s.networkId : BitVec (1 + 2 + 5 + 8 + 16))
  | 10 => some (s.pid.setWidth 32)
  | 11 => some ((BitVec.ofNat 16 s.descs.length).setWidth 32)
  | 12 => some ((BitVec.ofNat 16 s.ents.length).setWidth 32)
  | _ => none

end Sys2Proof.Machine
end

