-- ==== Sys2Proof/Machine/Ops.lean ====
section
/-! DEFINITION. The named operations over memory and registers that the meanings share: reading and writing
cells (spec 20_memory.md), the append, reserve and patch operations of the assembly unit (40_assembly_patcher.md
R100, R108 to R110), ending a command (10_state.md R31, 30_encoding.md R71) and taking an error
(60_exceptions.md R278). -/

namespace Sys2Proof.Machine

/-- What a step answers. -/
abbrev Out := Host.Outcome State Fault Refusal

/-- Why a command's work ends early: an error of R270, or a fault of the model. -/
inductive Stop where
  | err (e : Err)
  | fault (f : Fault)
deriving DecidableEq, Repr

/-! ### Memories -/

/-- What a cell holds; `none` is the mark *unwritten* (R26, R30). -/
def Memory.read (m : Memory) (a : Nat) : Option Byte := List.lookup a m

/-- The `n` bytes at addresses `a`, `a + 1`, ... at the head of a canonical list. -/
def takeRun : Nat → Nat → Memory → Option (List Byte)
  | 0, _, _ => some []
  | _ + 1, _, [] => none
  | n + 1, a, c :: m => if c.1 = a then (takeRun n (a + 1) m).map (c.2 :: ·) else none

/-- `MemRead(space, a, n)` (R13): the bytes of `n` cells from `a`, or `none` where a cell is unwritten. -/
def Memory.readBytes (m : Memory) (a n : Nat) : Option (List Byte) :=
  takeRun n a (m.dropWhile fun c => c.1 < a)

/-- A byte sequence as cells from address `a`. -/
def cellsFrom : Nat → List Byte → Memory
  | _, [] => []
  | a, b :: bs => (a, b) :: cellsFrom (a + 1) bs

/-- `MemWrite(space, a, len(bs), bs)` (R13). -/
def Memory.write (m : Memory) (a : Nat) (bs : List Byte) : Memory :=
  m.filter (fun c => c.1 < a) ++ cellsFrom a bs ++ m.filter (fun c => a + bs.length ≤ c.1)

/-! ### Ending a command -/

/-- RESULT of a success (R31). Above 32 bits the spec states no value: a free one (log entry 2). -/
def toResult (v : Nat) : Word := if v < 2 ^ 32 then BitVec.ofNat 32 v else Config.wideResult v

/-- The response (R71): the status byte, RESULT big-endian, and the bytes read. -/
def response (status : BitVec 3) (result : Word) (data : List Byte) : List Byte :=
  status.setWidth 8 :: (be32 result ++ data)

/-- A command ends with OK and the value `v` (R13 `return v`, R31): STATUS <- 0, RESULT <- v, and the response. -/
def complete (v : Nat) (data : List Byte) (s : State) : State :=
  { s with status := 0#3, result := toResult v, resp := response 0#3 (toResult v) data }

/-- TAKING AN ERROR (R278): STATUS <- code, RESULT <- information mod 2^32, the response carries the same two
values and no data; nothing else changes. There is no handler and so no return from an error (R279): the block
accepts the next command. -/
def raiseErr (e : Err) (s : State) : State :=
  { s with
    status := statusCode e
    result := BitVec.ofNat 32 (errInfo e)
    resp := response (statusCode e) (BitVec.ofNat 32 (errInfo e)) [] }

/-- What a command's work leaves when it succeeds: the state, the result value and the bytes read. -/
structure Done where
  state : State
  value : Nat
  data : List Byte := []

/-- A command is atomic (R277): with its work done it ends with OK; with an error the state is the one before
it, apart from `raiseErr`. -/
def finish (s : State) (r : Except Stop Done) : Out :=
  match r with
  | .ok d => .next (complete d.value d.data d.state)
  | .error (.err e) => .next (raiseErr e s)
  | .error (.fault f) => .fault f

/-- One check of a command's rule: it passes, or the command raises `e`. -/
def check (c : Prop) [Decidable c] (e : Err) : Except Stop Unit :=
  if c then .ok () else .error (.err e)

/-! ### BUF and OBUF -/

/-- `MemWrite(BUF, a, len(bs), bs)`. A cell outside BUF does not exist (R26): a fault. -/
def bufWrite (a : Nat) (bs : List Byte) (s : State) : Except Stop State :=
  if a + bs.length ≤ Config.bufSize then .ok { s with buf := Memory.write s.buf a bs }
  else .error (.fault .noSuchCell)

/-- `MemRead(BUF, a, n)`. The rules read written cells only (R56, R258): an unwritten one is a fault. -/
def bufRead (a n : Nat) (s : State) : Except Stop (List Byte) :=
  match Memory.readBytes s.buf a n with
  | some bs => .ok bs
  | none => .error (.fault .unwrittenCell)

/-- `MemRead(BUF, a, 1)[0]`. -/
def bufReadByte (a : Nat) (s : State) : Except Stop Byte :=
  match Memory.read s.buf a with
  | some b => .ok b
  | none => .error (.fault .unwrittenCell)

/-- `MemRead(OBUF, a, n)`. -/
def obufRead (a n : Nat) (s : State) : Except Stop (List Byte) :=
  match Memory.readBytes s.obuf a n with
  | some bs => .ok bs
  | none => .error (.fault .unwrittenCell)

/-- OBUF is written only as a whole (R52): `bs` from cell 0, every later cell unwritten, OLEN <- len(bs). -/
def obufFill (bs : List Byte) (s : State) : Except Stop State :=
  if bs.length ≤ Config.obufSize then
    .ok { s with obuf := cellsFrom 0 bs, olen := BitVec.ofNat 16 bs.length }
  else .error (.fault .noSuchCell)

/-! ### The assembly unit -/

/-- The effect of ASM.RESET (R101), also the first sub-step of SEC.ENC (R206). -/
def asmClear (cap : Half) (s : State) : State :=
  { s with buf := [], wp := 0#16, cap := cap, pstk := [], nb := 0#3, bv := 0#7, encValid := false }

/-- The helper `append(bs)` (R100). -/
def appendBytes (bs : List Byte) (s : State) : Except Stop State := do
  check (aligned s) (.badCommand .pendingBits)
  check (s.wp.toNat + bs.length ≤ s.cap.toNat) (.bufferTooSmall (s.wp.toNat + bs.length))
  let t ← bufWrite s.wp.toNat bs s
  return { t with wp := BitVec.ofNat 16 (s.wp.toNat + bs.length), encValid := false }

/-- Reserving a field (R108, R109): the checks in their order, the push on PSTK, and the placeholder bytes. -/
def reserve (kind : FieldKind) (bs : List Byte) (s : State) : Except Stop State := do
  check (aligned s) (.badCommand .pendingBits)
  check (pdepth s < Config.patchDepth) (.badCommand .patchFull)
  check (s.wp.toNat + bs.length ≤ s.cap.toNat) (.bufferTooSmall (s.wp.toNat + bs.length))
  appendBytes bs { s with pstk := ⟨s.wp, kind⟩ :: s.pstk }

/-- ASM.RSV8 (R108): one placeholder byte. -/
def reserve8 (s : State) : Except Stop State := reserve .w8 [Config.placeholder] s

/-- ASM.RSV12 (R109): the flags over a placeholder count. -/
def reserve12 (hi : BitVec 4) (s : State) : Except Stop State :=
  reserve .w12 [(hi ++ 0#4 : BitVec (4 + 4)), Config.placeholder] s

/-- R110: the number of bytes that follow a reserved field, up to the write pointer. -/
def patchCount (e : PatchEntry) (s : State) : Nat := s.wp.toNat - e.off.toNat - fsize e.kind

/-- ASM.PATCH (R110): close the most recently reserved field; the count written is returned. -/
def patchTop (s : State) : Except Stop (State × Nat) := do
  check (aligned s) (.badCommand .pendingBits)
  match s.pstk with
  | [] => .error (.err (.badCommand .patchEmpty))
  | e :: rest =>
    let n := patchCount e s
    match e.kind with
    | .w8 =>
      check (n ≤ 255) (.malformedInput n)
      let t ← bufWrite e.off.toNat [BitVec.ofNat 8 n] s
      return ({ t with pstk := rest, encValid := false }, n)
    | .w12 =>
      check (n ≤ 4095) (.malformedInput n)
      let b0 ← bufReadByte e.off.toNat s
      let t ← bufWrite e.off.toNat (lengthWordBytes (b0.extractLsb' 4 4) (BitVec.ofNat 12 n)) s
      return ({ t with pstk := rest, encValid := false }, n)

/-- The bit packer's accumulator with the field appended (R106): `acc`. -/
def packAcc (w : Nat) (v : Word) (s : State) : Nat := s.bv.toNat * 2 ^ w + v.toNat

/-- The effect of ASM.PUTF (R106) after the decoder's checks. -/
def putField (w : Nat) (v : Word) (s : State) : Except Stop State := do
  let acc := packAcc w v s
  let total := s.nb.toNat + w
  let k := total / 8
  let r := total % 8
  check (s.wp.toNat + k ≤ s.cap.toNat) (.bufferTooSmall (s.wp.toNat + k))
  let t ← bufWrite s.wp.toNat (beBytes k (acc / 2 ^ r)) s
  return { t with
    wp := BitVec.ofNat 16 (s.wp.toNat + k)
    nb := BitVec.ofNat 3 r
    bv := BitVec.ofNat 7 (acc % 2 ^ r)
    encValid := false }

/-- The two-pass pattern of one descriptor (R138): tag, placeholder length, payload, patch. -/
def encDescriptor (d : Descriptor) (s : State) : Except Stop State := do
  let s ← appendBytes [d.tag] s
  let s ← reserve8 s
  let s ← appendBytes d.payload s
  return (← patchTop s).1

/-- Appending and answering the new WP (R102 to R105). -/
def appendDone (bs : List Byte) (s : State) : Except Stop Done := do
  let t ← appendBytes bs s
  return { state := t, value := t.wp.toNat }

end Sys2Proof.Machine
end

