-- ==== Sys2Proof/Machine/Operands.lean ====
section
/-! DEFINITION. The operand range checks that depend on no state (spec 30_encoding.md R72): each failing check
raises BadCommand with RESULT <- 3 and changes nothing else. They come before the command's own rule. -/

namespace Sys2Proof.Machine

/-- A range check on an operand (R72). -/
def inRange (c : Prop) [Decidable c] : Except Stop Unit := check c (.badCommand .operandRange)

/-- `CSR.RD`: n ≤ 12 (R72). -/
def csrNumberOk (n : Byte) : Except Stop Unit := inRange (n.toNat ≤ 12)

/-- `ASM.RESET`, `SEC.ENC`: cap ≤ BUF_SIZE (R72). -/
def bufCapOk (cap : Half) : Except Stop Unit := inRange (cap.toNat ≤ Config.bufSize)

/-- `PKT.ENC`: cap ≤ OBUF_SIZE (R72). -/
def obufCapOk (cap : Half) : Except Stop Unit := inRange (cap.toNat ≤ Config.obufSize)

/-- `ASM.PUTF`: 1 ≤ w ≤ 32 and v < 2^w (R72). -/
def fieldOk (w : Byte) (v : Word) : Except Stop Unit :=
  inRange (1 ≤ w.toNat ∧ w.toNat ≤ 32 ∧ v.toNat < 2 ^ w.toNat)

/-- `ASM.RSV12`: hi ≤ 15 (R72). -/
def flagsOk (hi : Byte) : Except Stop Unit := inRange (hi.toNat ≤ 15)

/-- `SEC.INIT`: version ≤ 31 and pid ≤ 0x1FFF (R72). -/
def headerOk (version : Byte) (pid : Half) : Except Stop Unit :=
  inRange (version.toNat ≤ 31 ∧ pid.toNat ≤ 0x1FFF)

end Sys2Proof.Machine
end

