-- ==== Sys2Proof/Machine/Asm.lean ====
section
/-! DEFINITION. The commands of the assembly unit (spec 40_assembly_patcher.md R101 to R110). -/

namespace Sys2Proof.Machine

/-- `ASM.RESET cap` (R101). -/
def execAsmReset (cap : Half) (s : State) : Out :=
  finish s do
    bufCapOk cap
    return { state := asmClear cap s, value := 0 }

/-- `ASM.PUT8 v` (R102). -/
def execAsmPut8 (v : Byte) (s : State) : Out := finish s (appendDone [v] s)

/-- `ASM.PUT16 v` (R103). -/
def execAsmPut16 (v : Half) (s : State) : Out := finish s (appendDone (be16 v) s)

/-- `ASM.PUT32 v` (R104). -/
def execAsmPut32 (v : Word) (s : State) : Out := finish s (appendDone (be32 v) s)

/-- `ASM.PUTN b` (R105). -/
def execAsmPutn (b : List Byte) (s : State) : Out := finish s (appendDone b s)

/-- `ASM.PUTF w, v` (R106). -/
def execAsmPutf (w : Byte) (v : Word) (s : State) : Out :=
  finish s do
    fieldOk w v
    let t ← putField w.toNat v s
    return { state := t, value := t.wp.toNat }

/-- `ASM.RSV8` (R108). -/
def execAsmRsv8 (s : State) : Out :=
  finish s do
    let t ← reserve8 s
    return { state := t, value := s.wp.toNat }

/-- `ASM.RSV12 hi` (R109). -/
def execAsmRsv12 (hi : Byte) (s : State) : Out :=
  finish s do
    flagsOk hi
    let t ← reserve12 (hi.extractLsb' 0 4) s
    return { state := t, value := s.wp.toNat }

/-- `ASM.PATCH` (R110). -/
def execAsmPatch (s : State) : Out :=
  finish s do
    let t ← patchTop s
    return { state := t.1, value := t.2 }

end Sys2Proof.Machine
end

