-- ==== Sys2Proof/Machine/Crc.lean ====
section
/-! DEFINITION. The CRC-32 engine (spec 45_crc32.md): the bit-serial definition (R230), the byte-at-a-time
form (R233), the polynomial generator (R234) and the table-driven form (R235). The meanings use the bit-serial
definition; which form is built is unobservable (R237, log entry 18). -/

namespace Sys2Proof.Machine

/-- A message byte as it enters the engine: its bits in the other order where CRC_REFLECT is true (R7), else the
byte itself (R230). -/
def crcIn (b : Byte) : Byte := if Config.crcReflect then b.reverse else b

/-- The checksum that a final register gives: reflected where CRC_REFLECT is true (R7), and CRC_XOROUT (R230). -/
def crcOut (c : Word) : Word := (if Config.crcReflect then c.reverse else c) ^^^ Config.crcXorOut

/-- One message bit through the register (R230): feedback, shift, conditional exclusive-or. -/
def crcBit (c : Word) (b : Bool) : Word :=
  if (c.msb ^^ b) then (c <<< 1) ^^^ Config.crcPoly else c <<< 1

/-- The bits of a byte, most significant first (R230 `for i = 7 down to 0`). -/
def bitsOf (b : Byte) : List Bool :=
  [b.getLsbD 7, b.getLsbD 6, b.getLsbD 5, b.getLsbD 4, b.getLsbD 3, b.getLsbD 2, b.getLsbD 1, b.getLsbD 0]

/-- One message byte through the register, bit-serially (R230). -/
def crcByte (c : Word) (b : Byte) : Word := (bitsOf (crcIn b)).foldl crcBit c

/-- `crc32(m)` (R230), the normative definition. It starts from CRC_INIT every time (R231). -/
def crc32 (m : List Byte) : Word := crcOut (m.foldl crcByte Config.crcInit)

/-- One shift of the register with no message bit: the inner loop of R233 and of the generator of R234. -/
def crcShift (c : Word) : Word :=
  if c.msb then (c <<< 1) ^^^ Config.crcPoly else c <<< 1

/-- Eight shifts (R233, R234). -/
def crcShift8 (c : Word) : Word :=
  crcShift (crcShift (crcShift (crcShift (crcShift (crcShift (crcShift (crcShift c)))))))

/-- A byte in the top 8 bits of the register (R233 `b * 2^24`). -/
def topByte (b : Byte) : Word := (b ++ 0#24 : BitVec (8 + 24))

/-- One message byte, byte at a time (R233). -/
def crcByteAtOnce (c : Word) (b : Byte) : Word := crcShift8 (c ^^^ topByte (crcIn b))

/-- The polynomial generator (R234): entry `i` of the table. -/
def crcTableEntry (i : Byte) : Word := crcShift8 (topByte i)

/-- The 256-entry table (R234, R236), a constant of an implementation and no state (R34). -/
def crcTable : List Word := (List.range 256).map (fun i => crcTableEntry (BitVec.ofNat 8 i))

/-- One message byte in the table-driven form (R235). -/
def crcByteTable (c : Word) (b : Byte) : Word :=
  (c <<< 8) ^^^ crcTable.getD (c.extractLsb' 24 8 ^^^ crcIn b).toNat 0#32

/-- `crc32_table(m)` (R235). No command can tell it from `crc32` (R237). -/
def crc32Table (m : List Byte) : Word := crcOut (m.foldl crcByteTable Config.crcInit)

end Sys2Proof.Machine
end

