-- ==== Sys2Proof/Machine/CrcUnit.lean ====
section
/-! DEFINITION. The command of the CRC unit (spec 45_crc32.md R232) and the pseudo-instruction CRC.APPEND
(30_encoding.md R96), which the opcode table has no row for. -/

namespace Sys2Proof.Machine

/-- `CRC.CALC off, len` (R232). -/
def execCrcCalc (off len : Half) (s : State) : Out :=
  finish s do
    check (aligned s) (.badCommand .pendingBits)
    check (off.toNat + len.toNat ≤ s.wp.toNat) (.badCommand .unwrittenRead)
    let m ← bufRead off.toNat len.toNat s
    return { state := s, value := (crc32 m).toNat }

/-- `CRC.APPEND` (R96): `CRC.CALC 0, WP -> c`, then `ASM.PUT32 c`; it fails where its first failing command
fails. -/
def execCrcAppend (s : State) : Out :=
  match execCrcCalc 0#16 s.wp s with
  | .next t => if t.status = 0#3 then execAsmPut32 t.result t else .next t
  | o => o

end Sys2Proof.Machine
end

