-- ==== Sys2Proof/Machine/KindCheck.lean ====
section
/-! DEFINITION. The structure check `wf` of every descriptor kind (spec 42_descriptor_kinds.md R150 to R166).
A cursor `i` of the spec is the list of bytes from `i` up to the enclosing declared end; "fail" is `false` or
`none`. Reserved bits are ignored (D36). A loop is given as many turns as there are bytes, since each turn
consumes at least one (R134). -/

namespace Sys2Proof.Machine

/-- R150: always succeeds. -/
def wfNetworkName (_p : List Byte) : Bool := true

/-- R151: fail unless n mod 3 = 0. -/
def wfServiceList (p : List Byte) : Bool := p.length % 3 == 0

/-- R152: fail unless n = 11. -/
def wfSatDelivery (p : List Byte) : Bool := p.length == 11

/-- R153: fail unless n = 11. -/
def wfCableDelivery (p : List Byte) : Bool := p.length == 11

/-- R154: fail unless n = 11. -/
def wfTerrDelivery (p : List Byte) : Bool := p.length == 11

/-- R156 `wf_handover`: what is left after the hand-over sub-record. -/
def wfHandOver : List Byte → Option (List Byte)
  | [] => none
  | f :: r =>
    let hot := f.toNat / 16
    let ot := f.toNat % 2
    match (if 1 ≤ hot ∧ hot ≤ 3 then dropN 2 r else some r) with
    | none => none
    | some r' => if ot = 0 then dropN 2 r' else some r'

/-- R156 `wf_event`: what is left after the event sub-record. -/
def wfEvent (r : List Byte) : Option (List Byte) := dropN 3 r

/-- R156: the bytes that follow the flag byte `f` of a target entry. -/
def targetExtra (f : Byte) : Nat :=
  let tit := f.toNat / 4 % 4
  let onf := f.toNat / 2 % 2
  let sif := f.toNat % 2
  if tit = 3 then 2 else (if tit = 1 then 2 else 0) + 2 * onf + 2 * sif

/-- R156: the loop over target entries, which must land exactly on the declared end. -/
def wfTargetLoop : Nat → List Byte → Bool
  | _, [] => true
  | k + 1, _ :: _ :: f :: r => targetExtra f ≤ r.length && wfTargetLoop k (r.drop (targetExtra f))
  | _, _ => false

/-- R156 `wf_targets`: what is left after the target list. -/
def wfTargets : List Byte → Option (List Byte)
  | [] => none
  | ll :: r => if ll.toNat ≤ r.length && wfTargetLoop ll.toNat (r.take ll.toNat) then some (r.drop ll.toNat) else none

/-- R155: the trailer selected by linkage_type; what remains is private data and is not checked (D21). -/
def wfLinkage : List Byte → Bool
  | _ :: _ :: _ :: _ :: _ :: _ :: lt :: r =>
    if lt = 0x08#8 then (wfHandOver r).isSome
    else if lt = 0x0D#8 then (wfEvent r).isSome
    else if 0x0E ≤ lt.toNat ∧ lt.toNat ≤ 0x1F then (wfTargets r).isSome
    else true
  | _ => false

/-- R157. -/
def wfShortEvent : List Byte → Bool
  | _ :: _ :: _ :: nl :: r =>
    match r.drop nl.toNat with
    | tl :: t => tl.toNat == t.length
    | [] => false
  | _ => false

/-- R158: the item loop, bounded by the byte budget. -/
def wfItemLoop : Nat → List Byte → Bool
  | _, [] => true
  | k + 1, dl :: r =>
    match r.drop dl.toNat with
    | il :: t => il.toNat ≤ t.length && wfItemLoop k (t.drop il.toNat)
    | [] => false
  | 0, _ :: _ => false

/-- R158: after the item loop the text must end the payload. -/
def wfExtendedEvent : List Byte → Bool
  | _ :: _ :: _ :: _ :: li :: r =>
    match r.drop li.toNat with
    | tl :: t => wfItemLoop li.toNat (r.take li.toNat) && tl.toNat == t.length
    | [] => false
  | _ => false

/-- R159: the loop over per-language blocks. -/
def wfBlockLoop : Nat → List Byte → Bool
  | _, [] => true
  | k + 1, _ :: _ :: _ :: l :: r => l.toNat ≤ r.length && wfBlockLoop k (r.drop l.toNat)
  | _, _ => false

/-- R159. -/
def wfMlNetworkName (p : List Byte) : Bool := wfBlockLoop p.length p

/-- R160: one byte component_tag, then the loop of R159. -/
def wfMlComponent : List Byte → Bool
  | [] => false
  | _ :: r => wfBlockLoop r.length r

/-- R161: fail unless n = 4. -/
def wfPrivateDataSpec (p : List Byte) : Bool := p.length == 4

/-- R162: fail if n < 1; fail unless (n − 1) mod 4 = 0. -/
def wfFrequencyList : List Byte → Bool
  | [] => false
  | _ :: r => r.length % 4 == 0

/-- R163. -/
def wfDataBroadcast : List Byte → Bool
  | _ :: _ :: _ :: sl :: r =>
    match r.drop sl.toNat with
    | _ :: _ :: _ :: tl :: t => tl.toNat == t.length
    | _ => false
  | _ => false

/-- R165: the frequencies of one cell; `tfs` is tfs_flag. -/
def wfCellFrequencies (tfs : Bool) (r : List Byte) : Option (List Byte) :=
  if tfs then
    match r with
    | [] => none
    | fl :: r' => if fl.toNat % 4 = 0 then dropN fl.toNat r' else none
  else dropN 4 r

/-- R165: the subcell loop of one cell. -/
def wfSubcells : List Byte → Option (List Byte)
  | [] => none
  | sl :: r => if sl.toNat % 5 = 0 then dropN sl.toNat r else none

/-- R165: the cell loop, bounded by the descriptor length. -/
def wfCellLoop (tfs : Bool) : Nat → List Byte → Bool
  | _, [] => true
  | k + 1, _ :: _ :: r =>
    match wfCellFrequencies tfs r with
    | none => false
    | some r' =>
      match wfSubcells r' with
      | none => false
      | some r'' => wfCellLoop tfs k r''
  | _, _ => false

/-- R165 `wf_t2`, on the whole payload (p[0] is the tag_extension). -/
def wfT2 : List Byte → Bool
  | [_, _, _, _] => true
  | _ :: _ :: _ :: _ :: _ :: g :: r => wfCellLoop (g.getLsbD 0) r.length r
  | _ => false

/-- R164: only tag_extension 0x04 has a typed layout (D37). -/
def wfExtension (p : List Byte) : Bool :=
  match p with
  | [] => false
  | x :: _ => if x = 0x04#8 then wfT2 p else true

/-- R166: always succeeds. -/
def wfOpaque (_p : List Byte) : Bool := true

end Sys2Proof.Machine
end

