-- ==== Sys2Proof/Machine/Registry.lean ====
section
/-! DEFINITION. The descriptor registry (spec 43_registry.md): a constant table from tag to kind, the lookup with
its two unknown-tag behaviours (R191) and the check `create` (R192). -/

namespace Sys2Proof.Machine

/-- The kinds of R83 (R194). -/
inductive Kind where
  | networkName
  | serviceList
  | satDelivery
  | cableDelivery
  | linkage
  | shortEvent
  | extendedEvent
  | terrDelivery
  | mlNetworkName
  | mlComponent
  | privateDataSpec
  | frequencyList
  | dataBroadcast
  | extension
  | opaquePass
deriving DecidableEq, Repr

/-- REGISTRY (R9, R190): the 14 registered tags and their kinds (R83). -/
def registry : List (Byte × Kind) :=
  [(0x40#8, .networkName), (0x41#8, .serviceList), (0x43#8, .satDelivery), (0x44#8, .cableDelivery),
   (0x4A#8, .linkage), (0x4D#8, .shortEvent), (0x4E#8, .extendedEvent), (0x5A#8, .terrDelivery),
   (0x5B#8, .mlNetworkName), (0x5E#8, .mlComponent), (0x5F#8, .privateDataSpec), (0x62#8, .frequencyList),
   (0x64#8, .dataBroadcast), (0x7F#8, .extension)]

/-- `lookup(tag)` (R191). -/
def lookup (tag : Byte) : Except Stop Kind :=
  match registry.lookup tag with
  | some k => .ok k
  | none => if Config.privateTagMin ≤ tag.toNat then .ok .opaquePass else .error (.err (.unknownTag tag))

/-- `wf_k` (R132, R150 to R166). -/
def wfKind : Kind → List Byte → Bool
  | .networkName => wfNetworkName
  | .serviceList => wfServiceList
  | .satDelivery => wfSatDelivery
  | .cableDelivery => wfCableDelivery
  | .linkage => wfLinkage
  | .shortEvent => wfShortEvent
  | .extendedEvent => wfExtendedEvent
  | .terrDelivery => wfTerrDelivery
  | .mlNetworkName => wfMlNetworkName
  | .mlComponent => wfMlComponent
  | .privateDataSpec => wfPrivateDataSpec
  | .frequencyList => wfFrequencyList
  | .dataBroadcast => wfDataBroadcast
  | .extension => wfExtension
  | .opaquePass => wfOpaque

/-- `create(tag, p)` (R192): lookup, the length limit (R131), the structure check, in that order. -/
def create (tag : Byte) (p : List Byte) : Except Stop Descriptor := do
  let k ← lookup tag
  check (p.length ≤ Config.descMaxPayload) (.malformedInput p.length)
  check (wfKind k p = true) (.malformedInput 0)
  return ⟨tag, p⟩

end Sys2Proof.Machine
end

