-- ==== Sys2Proof/Machine/Desc.lean ====
section
/-! DEFINITION. The commands of the descriptor codec (spec 41_descriptor_codec.md R137 to R139). -/

namespace Sys2Proof.Machine

/-- `DESC.SIZE tag, p` (R137). -/
def execDescSize (tag : Byte) (p : List Byte) (s : State) : Out :=
  finish s do
    let d ← create tag p
    return { state := s, value := d.payload.length + Config.descHdr }

/-- `DESC.ENC tag, p` (R138): every check before the first write, then the two-pass pattern. -/
def execDescEnc (tag : Byte) (p : List Byte) (s : State) : Out :=
  finish s do
    check (aligned s) (.badCommand .pendingBits)
    check (pdepth s < Config.patchDepth) (.badCommand .patchFull)
    let d ← create tag p
    check (s.wp.toNat + p.length + Config.descHdr ≤ s.cap.toNat)
      (.bufferTooSmall (s.wp.toNat + p.length + Config.descHdr))
    let t ← encDescriptor d s
    return { state := t, value := p.length + Config.descHdr }

/-- The checks of R139 after the lookup: the declared length of the encoded descriptor `b` of kind `c`. -/
def decodeCheck (k : Byte) (c : Kind) (b : List Byte) : Except Stop Nat :=
  match b with
  | [] => .error (.err (.malformedInput 0))
  | t :: r => do
    check (t = k) (.tagMismatch t)
    match r with
    | [] => .error (.err (.malformedInput 1))
    | l :: p =>
      check (b.length = l.toNat + 2) (.malformedInput b.length)
      check (wfKind c p = true) (.malformedInput 0)
      return l.toNat

/-- `DESC.DEC k, b` (R139). -/
def execDescDec (k : Byte) (b : List Byte) (s : State) : Out :=
  finish s do
    let c ← lookup k
    let l ← decodeCheck k c b
    return { state := s, value := l }

end Sys2Proof.Machine
end

