-- ==== Sys2Proof/Machine/Pack.lean ====
section
/-! DEFINITION. The pseudo-instructions PACK.<KIND> (spec 30_encoding.md R96, 42_descriptor_kinds.md R150 to
R166): each is `ASM.PUT8 tag`, `ASM.RSV8`, the field-writing commands of its kind's rule, and `ASM.PATCH`, run one
after another. It fails where its first failing command fails; the commands before that one keep their effects. One
step runs the whole sequence (log entry 10). -/

namespace Sys2Proof.Machine

/-- The commands a PACK pseudo-instruction expands to. -/
inductive Line where
  | put8 (v : Byte)
  | put16 (v : Half)
  | put32 (v : Word)
  | putn (b : List Byte)
  | putf (w : Byte) (v : Word)
  | rsv8
  | patch
deriving DecidableEq, Repr

/-- The command a line stands for. -/
def Line.instr : Line → Instr
  | .put8 v => .asmPut8 v
  | .put16 v => .asmPut16 v
  | .put32 v => .asmPut32 v
  | .putn b => .asmPutn b
  | .putf w v => .asmPutf w v
  | .rsv8 => .asmRsv8
  | .patch => .asmPatch

/-- Running one line: the meaning of its command. -/
def Line.run : Line → State → Out
  | .put8 v, s => execAsmPut8 v s
  | .put16 v, s => execAsmPut16 v s
  | .put32 v, s => execAsmPut32 v s
  | .putn b, s => execAsmPutn b s
  | .putf w v, s => execAsmPutf w v s
  | .rsv8, s => execAsmRsv8 s
  | .patch, s => execAsmPatch s

/-- The lines in order, up to the first that does not end with OK (R96). -/
def runLines : List Line → State → Out
  | [], s => .next s
  | l :: ls, s =>
    match l.run s with
    | .next t => if t.status = 0#3 then runLines ls t else .next t
    | o => o

/-- `ASM.PUTF w, v` for a field of `w` bits. -/
def putBits {w : Nat} (v : BitVec w) : Line := .putf (BitVec.ofNat 8 w) (v.setWidth 32)

/-- `ASM.RSV8`, a body, `ASM.PATCH`. -/
def lenPrefixed (body : List Line) : List Line := .rsv8 :: (body ++ [.patch])

/-- `ASM.RSV8`, `ASM.PUTN text`, `ASM.PATCH`. -/
def textLines (t : List Byte) : List Line := lenPrefixed [.putn t]

/-- The expansion of `PACK.<KIND>` (R96): the tag, then the body as a length-prefixed field. -/
def packLines (tag : Byte) (body : List Line) : List Line := .put8 tag :: lenPrefixed body

/-- `ASM.PUT16` of a field, where it is present. -/
def put16Opt : Option Half → List Line
  | some v => [.put16 v]
  | none => []

/-- `ASM.PUTN lang`. -/
def langLine (l : Lang) : Line := .putn [l.c0, l.c1, l.c2]

/-- R151. -/
def serviceListLines (es : List ServiceEntry) : List Line :=
  es.flatMap fun e => [.put16 e.serviceId, .put8 e.serviceType]

/-- R152. -/
def satDeliveryLines (v : SatDelivery) : List Line :=
  [.put32 v.frequency, .put16 v.orbitalPosition, putBits v.westEastFlag, putBits v.polarization,
   putBits v.rollOff, putBits v.modulationSystem, putBits v.modulationType, putBits v.symbolRate,
   putBits v.fecInner]

/-- R153. -/
def cableDeliveryLines (v : CableDelivery) : List Line :=
  [.put32 v.frequency, putBits 0xFFF#12, putBits v.fecOuter, .put8 v.modulation, putBits v.symbolRate,
   putBits v.fecInner]

/-- R154. -/
def terrDeliveryLines (v : TerrDelivery) : List Line :=
  [.put32 v.centreFrequency, putBits v.bandwidth, putBits v.priority, putBits v.timeSlicingIndicator,
   putBits v.mpeFecIndicator, putBits 0b11#2, putBits v.constellation, putBits v.hierarchyInformation,
   putBits v.codeRateHp, putBits v.codeRateLp, putBits v.guardInterval, putBits v.transmissionMode,
   putBits v.otherFrequencyFlag, .put32 0xFFFFFFFF#32]

/-- R156, hand-over sub-record. -/
def handOverLines (v : HandOver) : List Line :=
  [putBits v.handOverType, putBits 0b111#3, putBits v.originType] ++
  put16Opt v.networkId ++ put16Opt v.initialServiceId

/-- R156, event sub-record. -/
def eventLines (v : LinkEvent) : List Line :=
  [.put16 v.targetEventId, putBits v.targetListed, putBits v.eventSimulcast, putBits 0b111111#6]

/-- R156, one target entry: the identifier, six `ASM.PUTF` for the flag byte in table order, then the 16-bit
fields that are present in table order. -/
def targetLines (v : LinkTarget) : List Line :=
  [.put16 v.targetEventId, putBits v.targetListed, putBits v.eventSimulcast, putBits v.linkType,
   putBits v.targetIdType, putBits v.originalNetworkIdFlag, putBits v.serviceIdFlag] ++
  put16Opt v.userDefinedId ++ put16Opt v.targetTransportStreamId ++
  put16Opt v.targetOriginalNetworkId ++ put16Opt v.targetServiceId

/-- R156, the trailer. -/
def trailerLines : LinkageTrailer → List Line
  | .absent => []
  | .handOver v => handOverLines v
  | .event v => eventLines v
  | .targets vs => lenPrefixed (vs.flatMap targetLines)

/-- R155. -/
def linkageLines (v : Linkage) : List Line :=
  [.put16 v.transportStreamId, .put16 v.originalNetworkId, .put16 v.serviceId, .put8 v.linkageType] ++
  trailerLines v.trailer ++ [.putn v.privateData]

/-- R157. -/
def shortEventLines (v : ShortEvent) : List Line :=
  langLine v.lang :: (textLines v.eventName ++ textLines v.text)

/-- R158, one item. -/
def itemLines (v : EventItem) : List Line := textLines v.description ++ textLines v.item

/-- R158. -/
def extendedEventLines (v : ExtendedEvent) : List Line :=
  [putBits v.descriptorNumber, putBits v.lastDescriptorNumber, langLine v.lang] ++
  lenPrefixed (v.items.flatMap itemLines) ++ textLines v.text

/-- R159, one per-language block. -/
def blockLines (b : LangBlock) : List Line := langLine b.lang :: textLines b.name

/-- R160. -/
def mlComponentLines (v : MlComponent) : List Line := .put8 v.componentTag :: v.blocks.flatMap blockLines

/-- R162. -/
def frequencyListLines (v : FrequencyList) : List Line :=
  [putBits 0b111111#6, putBits v.codingType] ++ v.frequencies.map .put32

/-- R163. -/
def dataBroadcastLines (v : DataBroadcast) : List Line :=
  [.put16 v.dataBroadcastId, .put8 v.componentTag] ++ textLines v.selector ++ [langLine v.lang] ++
  textLines v.text

/-- R165, one subcell. -/
def subcellLines (s : T2Subcell) : List Line := [.put8 s.cellIdExtension, .put32 s.transposerFrequency]

/-- R165, one cell. -/
def cellLines (tfs : BitVec 1) (c : T2Cell) : List Line :=
  [.put16 c.cellId] ++
  (if tfs = 1#1 then lenPrefixed (c.frequencies.map .put32) else c.frequencies.map .put32) ++
  lenPrefixed (c.subcells.flatMap subcellLines)

/-- R165, the optional part. -/
def t2LongLines (v : T2Long) : List Line :=
  [putBits v.sisoMiso, putBits v.bandwidth, putBits 0b11#2, putBits v.guardInterval,
   putBits v.transmissionMode, putBits v.otherFrequencyFlag, putBits v.tfsFlag] ++
  v.cells.flatMap (cellLines v.tfsFlag)

/-- R165, after `ASM.PUT8 0x04`. -/
def t2BodyLines (v : T2Delivery) : List Line :=
  [.put8 v.plpId, .put16 v.t2SystemId] ++ (match v.long with | none => [] | some l => t2LongLines l)

/-- R164: `ASM.PUT8 tag_extension`, then for 0x04 the commands of R165, otherwise `ASM.PUTN body`. (A body that
has no R165 value under 0x04 is no operand of the pseudo-instruction; it is put as it stands, log entry 8.) -/
def extensionLines (x : Byte) (body : List Byte) : List Line :=
  .put8 x ::
    (if x = 0x04#8 then
      (match parseT2 (x :: body) with
       | some v => t2BodyLines v
       | none => [.putn body])
     else [.putn body])

/-- `PACK.NETWORK_NAME text` (R150). -/
def execPackNetworkName (text : List Byte) (s : State) : Out :=
  runLines (packLines 0x40#8 [.putn text]) s

/-- `PACK.SERVICE_LIST entries` (R151). -/
def execPackServiceList (entries : List ServiceEntry) (s : State) : Out :=
  runLines (packLines 0x41#8 (serviceListLines entries)) s

/-- `PACK.SAT_DELIVERY` (R152). -/
def execPackSatDelivery (v : SatDelivery) (s : State) : Out :=
  runLines (packLines 0x43#8 (satDeliveryLines v)) s

/-- `PACK.CABLE_DELIVERY` (R153). -/
def execPackCableDelivery (v : CableDelivery) (s : State) : Out :=
  runLines (packLines 0x44#8 (cableDeliveryLines v)) s

/-- `PACK.LINKAGE` (R155, R156). -/
def execPackLinkage (v : Linkage) (s : State) : Out := runLines (packLines 0x4A#8 (linkageLines v)) s

/-- `PACK.SHORT_EVENT` (R157). -/
def execPackShortEvent (v : ShortEvent) (s : State) : Out :=
  runLines (packLines 0x4D#8 (shortEventLines v)) s

/-- `PACK.EXTENDED_EVENT` (R158). -/
def execPackExtendedEvent (v : ExtendedEvent) (s : State) : Out :=
  runLines (packLines 0x4E#8 (extendedEventLines v)) s

/-- `PACK.TERR_DELIVERY` (R154). -/
def execPackTerrDelivery (v : TerrDelivery) (s : State) : Out :=
  runLines (packLines 0x5A#8 (terrDeliveryLines v)) s

/-- `PACK.ML_NETWORK_NAME` (R159). -/
def execPackMlNetworkName (blocks : List LangBlock) (s : State) : Out :=
  runLines (packLines 0x5B#8 (blocks.flatMap blockLines)) s

/-- `PACK.ML_COMPONENT` (R160). -/
def execPackMlComponent (v : MlComponent) (s : State) : Out :=
  runLines (packLines 0x5E#8 (mlComponentLines v)) s

/-- `PACK.PRIVATE_DATA_SPEC` (R161). -/
def execPackPrivateDataSpec (v : Word) (s : State) : Out := runLines (packLines 0x5F#8 [.put32 v]) s

/-- `PACK.FREQUENCY_LIST` (R162). -/
def execPackFrequencyList (v : FrequencyList) (s : State) : Out :=
  runLines (packLines 0x62#8 (frequencyListLines v)) s

/-- `PACK.DATA_BROADCAST` (R163). -/
def execPackDataBroadcast (v : DataBroadcast) (s : State) : Out :=
  runLines (packLines 0x64#8 (dataBroadcastLines v)) s

/-- `PACK.EXTENSION tag_extension, body` (R164). -/
def execPackExtension (tagExtension : Byte) (body : List Byte) (s : State) : Out :=
  runLines (packLines 0x7F#8 (extensionLines tagExtension body)) s

/-- `PACK.EXTENSION 0x04` with its typed body (R165). -/
def execPackExtensionT2 (v : T2Delivery) (s : State) : Out :=
  runLines (packLines 0x7F#8 (.put8 0x04#8 :: t2BodyLines v)) s

/-- `PACK.OPAQUE tag, raw` (R166). -/
def execPackOpaque (tag : Byte) (raw : List Byte) (s : State) : Out :=
  runLines (packLines tag [.putn raw]) s

end Sys2Proof.Machine
end

