-- ==== Sys2Proof/Machine/Pkt.lean ====
section
/-! DEFINITION. The transport packetizer (spec 46_packetizer.md R250 to R252). -/

namespace Sys2Proof.Machine

/-- `npkt(L)` (R250). -/
def npkt (l : Nat) : Nat := (l + Config.payloadSize) / Config.payloadSize

/-- ENC_VALID = 1 (R251, R252): the packetizer commands' precondition. -/
def encoded (s : State) : Except Stop Unit := check (s.encValid = true) (.badCommand .outOfSequence)

/-- `PKT.SIZE` (R251). -/
def execPktSize (s : State) : Out :=
  finish s do
    encoded s
    return { state := s, value := npkt s.encLen.toNat * Config.packetSize }

/-- The Segment's bytes (R252 `stream`): pointer_field, section, stuffing to the chunk boundary. -/
def pktStream (sec : List Byte) : List Byte :=
  Config.pointerField ::
    (sec ++ List.replicate (npkt sec.length * Config.payloadSize - (sec.length + 1)) Config.stuff)

/-- Packet `k` (R252): header and chunk. -/
def packet (pid : BitVec 13) (stream : List Byte) (k : Nat) : List Byte :=
  tsHeaderBytes (if k = 0 then 1#1 else 0#1) pid ++
    (stream.drop (k * Config.payloadSize)).take Config.payloadSize

/-- The packets of an encoded section, back to back (R252). -/
def packets (pid : BitVec 13) (sec : List Byte) : List Byte :=
  (List.range (npkt sec.length)).flatMap (packet pid (pktStream sec))

/-- `PKT.ENC cap` (R252). -/
def execPktEnc (cap : Half) (s : State) : Out :=
  finish s do
    obufCapOk cap
    encoded s
    let n := npkt s.encLen.toNat * Config.packetSize
    check (n ≤ cap.toNat) (.bufferTooSmall n)
    let sec ← bufRead 0 s.encLen.toNat s
    let t ← obufFill (packets s.pid sec) s
    return { state := t, value := n }

end Sys2Proof.Machine
end

