-- ==== Sys2Proof/Machine/Sec.lean ====
section
/-! DEFINITION. The section assembler (spec 44_section_assembler.md R200 to R206). ENTITY_DESC_LEN is the open
parameter `Config.entityDescLen`; every operation that depends on it takes it as an argument, so that both arms
can be evaluated. -/

namespace Sys2Proof.Machine

/-- S.valid = 1 (R201 to R206): the section commands' precondition. -/
def sectionOpen (s : State) : Except Stop Unit := check (s.valid = true) (.badCommand .outOfSequence)

/-- `SEC.INIT table_id, network_id, version, pid` (R200). -/
def execSecInit (tableId : Byte) (networkId : Half) (version : Byte) (pid : Half) (s : State) : Out :=
  finish s do
    headerOk version pid
    return {
      state := { s with
        tableId := tableId
        networkId := networkId
        version := version.extractLsb' 0 5
        pid := pid.extractLsb' 0 13
        descs := []
        ents := []
        valid := true
        encValid := false }
      value := 0 }

/-- `SEC.ADDD tag, p` (R201). -/
def execSecAddd (tag : Byte) (p : List Byte) (s : State) : Out :=
  finish s do
    sectionOpen s
    let d ← create tag p
    return {
      state := { s with descs := s.descs ++ [d], encValid := false }
      value := s.descs.length + 1 }

/-- `SEC.ADDE ts_id, on_id` (R202). -/
def execSecAdde (tsId onId : Half) (s : State) : Out :=
  finish s do
    sectionOpen s
    return {
      state := { s with ents := s.ents ++ [⟨tsId, onId, []⟩], encValid := false }
      value := s.ents.length }

/-- R203: entity `h` with one more descriptor. -/
def addToEntity (h : Nat) (d : Descriptor) (es : List Entity) : List Entity :=
  es.modify h fun e => { e with descs := e.descs ++ [d] }

/-- `ENT.ADDD h, tag, p` (R203). -/
def execEntAddd (h : Half) (tag : Byte) (p : List Byte) (s : State) : Out :=
  finish s do
    sectionOpen s
    match s.ents[h.toNat]? with
    | none => .error (.err (.badCommand .operandRange))
    | some e =>
      let d ← create tag p
      return {
        state := { s with ents := addToEntity h.toNat d s.ents, encValid := false }
        value := e.descs.length + 1 }

/-- `dsize(L)` (R204). -/
def dsize (ds : List Descriptor) : Nat := (ds.map fun d => d.payload.length + Config.descHdr).sum

/-- The size of one entity record (R79, R204). -/
def entitySize (edl : Bool) (e : Entity) : Nat := 4 + (if edl then 2 else 0) + dsize e.descs

/-- `sec_size(S)` (R204). -/
def secSize (edl : Bool) (s : State) : Nat :=
  8 + (2 + dsize s.descs) + (2 + (s.ents.map (entitySize edl)).sum) + Config.crcLen

/-- `SEC.SIZE` (R205). -/
def execSecSize (s : State) : Out :=
  finish s do
    sectionOpen s
    return { state := s, value := secSize Config.entityDescLen s }

/-- R206: `for d in ...: DESC.ENC d.tag, d.payload`, without repeating `create`. -/
def encDescriptors : List Descriptor → State → Except Stop State
  | [], s => .ok s
  | d :: ds, s => do
    let s ← encDescriptor d s
    encDescriptors ds s

/-- R206: one entity record. -/
def encEntity (edl : Bool) (e : Entity) (s : State) : Except Stop State := do
  let s ← appendBytes (entityHeaderBytes e.tsId e.onId) s
  if edl then
    let s ← reserve12 Config.rsv4 s
    let s ← encDescriptors e.descs s
    return (← patchTop s).1
  else encDescriptors e.descs s

/-- R206: `for e in S.ents`. -/
def encEntities (edl : Bool) : List Entity → State → Except Stop State
  | [], s => .ok s
  | e :: es, s => do
    let s ← encEntity edl e s
    encEntities edl es s

/-- The effect of SEC.ENC (R206) after its checks, by its sub-steps; `n` is the section size. -/
def encSection (edl : Bool) (cap : Half) (n : Nat) (s : State) : Except Stop State := do
  let t := asmClear cap s
  let t ← appendBytes (sectionHeaderBytes s.tableId (BitVec.ofNat 12 (n - 3)) s.networkId s.version) t
  let t ← reserve12 Config.rsv4 t
  let t ← encDescriptors s.descs t
  let t := (← patchTop t).1
  let t ← reserve12 Config.rsv4 t
  let t ← encEntities edl s.ents t
  let t := (← patchTop t).1
  let m ← bufRead 0 t.wp.toNat t
  let t ← appendBytes (be32 (crc32 m)) t
  return { t with encValid := true, encLen := BitVec.ofNat 16 n }

/-- `SEC.ENC cap` (R206). -/
def execSecEnc (cap : Half) (s : State) : Out :=
  finish s do
    bufCapOk cap
    sectionOpen s
    let n := secSize Config.entityDescLen s
    check (n ≤ Config.maxSection) (.sectionTooLarge n)
    check (n ≤ cap.toNat) (.bufferTooSmall n)
    let t ← encSection Config.entityDescLen cap n s
    return { state := t, value := n }

end Sys2Proof.Machine
end

