-- ==== Sys2Proof/Machine/System.lean ====
section
/-! DEFINITION. The read-back commands: CSR.RD (spec 60_exceptions.md R284), BUF.RD (40_assembly_patcher.md R113)
and OBUF.RD (46_packetizer.md R256). -/

namespace Sys2Proof.Machine

/-- `CSR.RD n` (R284): the value CSR[n] had before the command. -/
def execCsrRd (n : Byte) (s : State) : Out :=
  finish s do
    csrNumberOk n
    match csr n.toNat s with
    | some v => return { state := s, value := v.toNat }
    | none => .error (.err (.badCommand .operandRange))

/-- `BUF.RD off, n` (R113). -/
def execBufRd (off n : Half) (s : State) : Out :=
  finish s do
    check (off.toNat + n.toNat ≤ s.wp.toNat) (.badCommand .unwrittenRead)
    let data ← bufRead off.toNat n.toNat s
    return { state := s, value := n.toNat, data := data }

/-- `OBUF.RD off, n` (R256). -/
def execObufRd (off n : Half) (s : State) : Out :=
  finish s do
    check (off.toNat + n.toNat ≤ s.olen.toNat) (.badCommand .unwrittenRead)
    let data ← obufRead off.toNat n.toNat s
    return { state := s, value := n.toNat, data := data }

end Sys2Proof.Machine
end

