-- ==== Sys2Proof/Machine/Wire.lean ====
section
/-! DEFINITION. The wire patterns of the opcode table (spec 30_encoding.md R75 to R77, R79 to R81, and the
pointer_field of 46_packetizer.md R252). The spec gives them as what DESC.ENC, SEC.ENC and PKT.ENC emit and gives no
command for them. Run by itself, a row appends its pattern at WP by the helper `append` of R100 and answers the
new WP, as the sub-step of R206 and R138 that emits it does (log entry 6, DESIGN CHOICE). -/

namespace Sys2Proof.Machine

/-- R75: the tag and length bytes in front of a payload. -/
def execWireDescriptor (tag length : Byte) (s : State) : Out := finish s (appendDone [tag, length] s)

/-- R76. -/
def execWireLengthWord (flags : BitVec 4) (count : BitVec 12) (s : State) : Out :=
  finish s (appendDone (lengthWordBytes flags count) s)

/-- R77. -/
def execWireSectionHeader (tableId : Byte) (sectionLength : BitVec 12) (networkId : Half)
    (version : BitVec 5) (s : State) : Out :=
  finish s (appendDone (sectionHeaderBytes tableId sectionLength networkId version) s)

/-- R79. -/
def execWireEntityHeader (tsId onId : Half) (s : State) : Out :=
  finish s (appendDone (entityHeaderBytes tsId onId) s)

/-- R80, R239. -/
def execWireCrcTrailer (crc : Word) (s : State) : Out := finish s (appendDone (be32 crc) s)

/-- R81. -/
def execWireTsHeader (start : BitVec 1) (pid : BitVec 13) (s : State) : Out :=
  finish s (appendDone (tsHeaderBytes start pid) s)

/-- R252. -/
def execWirePointerField (s : State) : Out := finish s (appendDone [Config.pointerField] s)

end Sys2Proof.Machine
end

