-- ==== Sys2Proof/Machine/Dispatch.lean ====
section
/-! DEFINITION. One arm per constructor of Instr, each a direct call of that instruction's meaning. -/

namespace Sys2Proof.Machine

def exec (i : Instr) (s : State) : Host.Outcome State Fault Refusal :=
  match i with
  | .csrRd n => Sys2Proof.Machine.execCsrRd n s
  | .bufRd off n => Sys2Proof.Machine.execBufRd off n s
  | .obufRd off n => Sys2Proof.Machine.execObufRd off n s
  | .asmReset cap => Sys2Proof.Machine.execAsmReset cap s
  | .asmPut8 v => Sys2Proof.Machine.execAsmPut8 v s
  | .asmPut16 v => Sys2Proof.Machine.execAsmPut16 v s
  | .asmPut32 v => Sys2Proof.Machine.execAsmPut32 v s
  | .asmPutn b => Sys2Proof.Machine.execAsmPutn b s
  | .asmPutf w v => Sys2Proof.Machine.execAsmPutf w v s
  | .asmRsv8 => Sys2Proof.Machine.execAsmRsv8 s
  | .asmRsv12 hi => Sys2Proof.Machine.execAsmRsv12 hi s
  | .asmPatch => Sys2Proof.Machine.execAsmPatch s
  | .descSize tag p => Sys2Proof.Machine.execDescSize tag p s
  | .descEnc tag p => Sys2Proof.Machine.execDescEnc tag p s
  | .descDec k b => Sys2Proof.Machine.execDescDec k b s
  | .secInit tableId networkId version pid => Sys2Proof.Machine.execSecInit tableId networkId version pid s
  | .secAddd tag p => Sys2Proof.Machine.execSecAddd tag p s
  | .secAdde tsId onId => Sys2Proof.Machine.execSecAdde tsId onId s
  | .entAddd h tag p => Sys2Proof.Machine.execEntAddd h tag p s
  | .secSize => Sys2Proof.Machine.execSecSize s
  | .secEnc cap => Sys2Proof.Machine.execSecEnc cap s
  | .crcCalc off len => Sys2Proof.Machine.execCrcCalc off len s
  | .pktSize => Sys2Proof.Machine.execPktSize s
  | .pktEnc cap => Sys2Proof.Machine.execPktEnc cap s
  | .packNetworkName text => Sys2Proof.Machine.execPackNetworkName text s
  | .packServiceList entries => Sys2Proof.Machine.execPackServiceList entries s
  | .packSatDelivery v => Sys2Proof.Machine.execPackSatDelivery v s
  | .packCableDelivery v => Sys2Proof.Machine.execPackCableDelivery v s
  | .packLinkage v => Sys2Proof.Machine.execPackLinkage v s
  | .packShortEvent v => Sys2Proof.Machine.execPackShortEvent v s
  | .packExtendedEvent v => Sys2Proof.Machine.execPackExtendedEvent v s
  | .packTerrDelivery v => Sys2Proof.Machine.execPackTerrDelivery v s
  | .packMlNetworkName blocks => Sys2Proof.Machine.execPackMlNetworkName blocks s
  | .packMlComponent v => Sys2Proof.Machine.execPackMlComponent v s
  | .packPrivateDataSpec v => Sys2Proof.Machine.execPackPrivateDataSpec v s
  | .packFrequencyList v => Sys2Proof.Machine.execPackFrequencyList v s
  | .packDataBroadcast v => Sys2Proof.Machine.execPackDataBroadcast v s
  | .packExtension tagExtension body => Sys2Proof.Machine.execPackExtension tagExtension body s
  | .packExtensionT2 v => Sys2Proof.Machine.execPackExtensionT2 v s
  | .packOpaque tag raw => Sys2Proof.Machine.execPackOpaque tag raw s
  | .wireDescriptor tag length => Sys2Proof.Machine.execWireDescriptor tag length s
  | .wireLengthWord flags count => Sys2Proof.Machine.execWireLengthWord flags count s
  | .wireSectionHeader tableId sectionLength networkId version => Sys2Proof.Machine.execWireSectionHeader tableId sectionLength networkId version s
  | .wireEntityHeader tsId onId => Sys2Proof.Machine.execWireEntityHeader tsId onId s
  | .wireCrcTrailer crc => Sys2Proof.Machine.execWireCrcTrailer crc s
  | .wireTsHeader start pid => Sys2Proof.Machine.execWireTsHeader start pid s
  | .wirePointerField => Sys2Proof.Machine.execWirePointerField s

end Sys2Proof.Machine
end

