-- ==== Sys2Proof/Machine/Port.lean ====
section
/-! DEFINITION. The command port: how the block takes what the host and the platform put on it (spec
10_state.md R20, R24; 30_encoding.md R70, R74, R96; 70_reset_and_hazards.md R300). -/

namespace Sys2Proof.Machine

/-- The BadCommand reason of a frame that is no command (R276): 1 for a reserved opcode, else 8. -/
def frameReason : DecodeErr → Reason
  | .reservedOpcode => .reservedOpcode
  | _ => .badFrame

/-- A command frame: decoded and run, or answered with BadCommand (R70, R74, R280 class 1). -/
def serveFrame (bytes : List Byte) (s : State) : Out :=
  match decodeFrame bytes with
  | .ok i => exec i s
  | .error e => .next (raiseErr (.badCommand (frameReason e)) s)

/-- One item of the port. A reset takes every piece of the block's state to its reset value (R300); what still
waits on the port is the host's and stays (log entry 14). -/
def serveItem (item : PortItem) (s : State) : Out :=
  match item with
  | .frame bytes => serveFrame bytes s
  | .listing i => exec i s
  | .crcAppend => execCrcAppend s
  | .reset => .next { State.reset with port := s.port }

/-- The block takes the oldest item of the port; with nothing there it is idle and keeps all state (R290). -/
def servePort (s : State) : Out :=
  match s.port with
  | [] => .next s
  | item :: rest => serveItem item { s with port := rest }

/-- The port item of a row of the opcode table: a frame for a command, a line of a listing for the others. -/
def tableItem (nbits w : Nat) : PortItem :=
  let image := tableImage nbits w
  match image.1 with
  | .cmd => .frame image.2
  | f =>
    match decode f image.2 with
    | .ok i => .listing i
    | .error _ => .frame image.2

/-- The row's item in front of whatever waits on the port. -/
def placeTableWord (s : State) (nbits w : Nat) : State := { s with port := tableItem nbits w :: s.port }

end Sys2Proof.Machine
end

