-- ==== Sys2Proof/Machine/Step.lean ====
section
/-! DEFINITION. One step of the machine, and the placement of an instruction where the step takes its next
one. -/

namespace Sys2Proof.Machine

/-- One step: the block takes the oldest item of its command port (R20, R59). -/
def step (s : State) : Host.Outcome State Fault Refusal := Sys2Proof.Machine.servePort s

/-- `s` with the instruction of a table row as the next item of the command port (log entry 7). -/
def State.withFetchWord (s : State) (nbits w : Nat) : State := Sys2Proof.Machine.placeTableWord s nbits w

end Sys2Proof.Machine
end

