-- ==== Sys2Proof/WellFormed.lean ====
section
/-! DEFINITION. Well-formed instructions: those that have words (an encoding of their own, Decode.lean) and
whose operands are in the ranges the spec states. For a command: R72's operand ranges, and a `bytes` operand
whose count fits its u16 (R70). For a pseudo-instruction: R133's "every typed value v whose fields are within
their widths and whose packed payload is at most 255 bytes", with each conditional field present exactly when
the layout says so. A wire pattern's fields have their widths by type. `exec` does not ask for it: an
ill-formed command is answered with its error. -/

namespace Sys2Proof

/-- The count of a `bytes` operand is a u16 (R70). -/
def bytesOk (p : List Byte) : Bool := p.length ≤ 65535

/-- The packed payload is at most 255 bytes (R131, R133). -/
def payloadOk (p : List Byte) : Bool := p.length ≤ Config.descMaxPayload

/-- R156: network_id is present when hand_over_type is 1, 2 or 3, initial_service_id when origin_type is 0. -/
def HandOver.ok (v : HandOver) : Bool :=
  v.networkId.isSome == (1 ≤ v.handOverType.toNat && v.handOverType.toNat ≤ 3) &&
  v.initialServiceId.isSome == (v.originType == 0#1)

/-- R156: which of the four identifiers an entry of the target list carries. -/
def LinkTarget.ok (v : LinkTarget) : Bool :=
  v.userDefinedId.isSome == (v.targetIdType == 3#2) &&
  v.targetTransportStreamId.isSome == (v.targetIdType == 1#2) &&
  v.targetOriginalNetworkId.isSome == (v.targetIdType != 3#2 && v.originalNetworkIdFlag == 1#1) &&
  v.targetServiceId.isSome == (v.targetIdType != 3#2 && v.serviceIdFlag == 1#1)

/-- R155: linkage_type selects the trailer. -/
def Linkage.ok (v : Linkage) : Bool :=
  match v.trailer with
  | .handOver h => v.linkageType == 0x08#8 && h.ok
  | .event _ => v.linkageType == 0x0D#8
  | .targets ts => 0x0E ≤ v.linkageType.toNat && v.linkageType.toNat ≤ 0x1F && ts.all LinkTarget.ok
  | .absent =>
    !(v.linkageType == 0x08#8) && !(v.linkageType == 0x0D#8) &&
    !(0x0E ≤ v.linkageType.toNat && v.linkageType.toNat ≤ 0x1F)

/-- R165: with tfs_flag = 0 a cell has exactly one frequency. -/
def T2Long.ok (v : T2Long) : Bool :=
  v.tfsFlag == 1#1 || v.cells.all (fun c => c.frequencies.length == 1)

/-- R165. -/
def T2Delivery.ok (v : T2Delivery) : Bool :=
  match v.long with
  | none => true
  | some l => l.ok

/-- The well-formed instructions. -/
def Instr.wellFormed : Instr → Bool
  | .csrRd n => n.toNat ≤ 12
  | .bufRd _ _ => true
  | .obufRd _ _ => true
  | .asmReset cap => cap.toNat ≤ Config.bufSize
  | .asmPut8 _ => true
  | .asmPut16 _ => true
  | .asmPut32 _ => true
  | .asmPutn b => bytesOk b
  | .asmPutf w v => 1 ≤ w.toNat && w.toNat ≤ 32 && v.toNat < 2 ^ w.toNat
  | .asmRsv8 => true
  | .asmRsv12 hi => hi.toNat ≤ 15
  | .asmPatch => true
  | .descSize _ p => bytesOk p
  | .descEnc _ p => bytesOk p
  | .descDec _ b => bytesOk b
  | .secInit _ _ version pid => version.toNat ≤ 31 && pid.toNat ≤ 0x1FFF
  | .secAddd _ p => bytesOk p
  | .secAdde _ _ => true
  | .entAddd _ _ p => bytesOk p
  | .secSize => true
  | .secEnc cap => cap.toNat ≤ Config.bufSize
  | .crcCalc _ _ => true
  | .pktSize => true
  | .pktEnc cap => cap.toNat ≤ Config.obufSize
  | .packNetworkName text => payloadOk text
  | .packServiceList es => payloadOk (Machine.serviceListBytes es)
  | .packSatDelivery _ => true
  | .packCableDelivery _ => true
  | .packLinkage v => v.ok && payloadOk (Machine.linkageBytes v)
  | .packShortEvent v => payloadOk (Machine.shortEventBytes v)
  | .packExtendedEvent v => payloadOk (Machine.extendedEventBytes v)
  | .packTerrDelivery _ => true
  | .packMlNetworkName bs => payloadOk (Machine.mlNetworkNameBytes bs)
  | .packMlComponent v => payloadOk (Machine.mlComponentBytes v)
  | .packPrivateDataSpec _ => true
  | .packFrequencyList v => payloadOk (Machine.frequencyListBytes v)
  | .packDataBroadcast v => payloadOk (Machine.dataBroadcastBytes v)
  | .packExtension x body => x != 0x04#8 && payloadOk (x :: body)
  | .packExtensionT2 v => v.ok && payloadOk (0x04#8 :: Machine.t2BodyBytes v)
  | .packOpaque tag raw => 0x80 ≤ tag.toNat && payloadOk raw
  | .wireDescriptor _ _ => true
  | .wireLengthWord _ _ => true
  | .wireSectionHeader _ _ _ _ => true
  | .wireEntityHeader _ _ => true
  | .wireCrcTrailer _ => true
  | .wireTsHeader _ _ => true
  | .wirePointerField => true

end Sys2Proof
end

