-- ==== Sys2Proof/Safety.lean ====
section
/-! DEFINITION. What counts as a safe state and a safe run, and the terms statements about the machine are written
in: the layout of a section as one byte sequence (spec 30_encoding.md R78), the answer to a command (R31, R71), a
store seen through one-byte reads, and the invariant of the state (10_state.md R23, R26 to R31, R258). -/

namespace Sys2Proof.Machine

/-! ### The section as one byte sequence -/

/-- The encoded descriptors of a list, in order (R75, R78). -/
def descsBytes (ds : List Descriptor) : List Byte := ds.flatMap fun d => encodeTlv (d.tag, d.payload)

/-- One entity record (R79). -/
def entityRecord (edl : Bool) (e : Entity) : List Byte :=
  entityHeaderBytes e.tsId e.onId ++
  (if edl then lengthWordBytes Config.rsv4 (BitVec.ofNat 12 (dsize e.descs)) else []) ++
  descsBytes e.descs

/-- T, the total encoded size of the entity records (R78). -/
def entitiesSize (edl : Bool) (es : List Entity) : Nat := (es.map (entitySize edl)).sum

/-- The section before its CRC trailer (R78). -/
def sectionBody (edl : Bool) (s : State) : List Byte :=
  sectionHeaderBytes s.tableId (BitVec.ofNat 12 (secSize edl s - 3)) s.networkId s.version ++
  lengthWordBytes Config.rsv4 (BitVec.ofNat 12 (dsize s.descs)) ++ descsBytes s.descs ++
  lengthWordBytes Config.rsv4 (BitVec.ofNat 12 (entitiesSize edl s.ents)) ++
  s.ents.flatMap (entityRecord edl)

/-- The whole section (R78, R80). -/
def sectionLayout (edl : Bool) (s : State) : List Byte :=
  sectionBody edl s ++ be32 (crc32 (sectionBody edl s))

/-! ### Answers and stores -/

/-- `s` after an answer (R31, R71): STATUS, RESULT and the response. -/
def State.answered (s : State) (code : BitVec 3) (v : Word) (data : List Byte) : State :=
  { s with status := code, result := v, resp := code.setWidth 8 :: (be32 v ++ data) }

/-- `s` after BadCommand with a reason code (R276). -/
abbrev State.badCommand (s : State) (reason : Nat) : State := s.answered 6#3 (BitVec.ofNat 32 reason) []

/-- `m'` is `m` with `bs` stored from address `a`: those cells read as `bs`, every other cell as before. -/
def Stored (m m' : Memory) (a : Nat) (bs : List Byte) : Prop :=
  (∀ i : Nat, i < bs.length → Memory.read m' (a + i) = bs[i]?) ∧
  ∀ k : Nat, k < a ∨ a + bs.length ≤ k → Memory.read m' k = Memory.read m k

/-- A command appended `bs` at WP and answered the value `v` (R100, R102): the bytes stand at the old WP, WP is
past them, ENC_VALID is 0, and nothing else has changed. -/
def Appended (o : Out) (s : State) (bs : List Byte) (v : Nat) : Prop :=
  ∃ t : State, o = .next t ∧ Stored s.buf t.buf s.wp.toNat bs ∧
    t = { s with buf := t.buf, wp := BitVec.ofNat 16 (s.wp.toNat + bs.length), encValid := false }.answered
      0#3 (BitVec.ofNat 32 v) []

/-- There is room for `n` bytes at WP: the block is aligned, and WP + n ≤ CAP ≤ BUF_SIZE (R26, R100). -/
abbrev Room (s : State) (n : Nat) : Prop :=
  s.nb = 0#3 ∧ s.wp.toNat + n ≤ s.cap.toNat ∧ s.cap.toNat ≤ Config.bufSize

/-- Cells 0..n−1 are written and no others, and the list is canonical (R26, R30). -/
abbrev WrittenUpTo (m : Memory) (n : Nat) : Prop := m.map Prod.fst = List.range n

/-- The `k` bytes of a number of `8k` bits, most significant first (R11, R53, R54). -/
def bigEndian (k n : Nat) : List Byte :=
  (List.range k).map fun i => BitVec.ofNat 8 (n / 256 ^ (k - 1 - i))

/-- `i` is an append of `bs` (R100): the two checks in their order, then the effect, RESULT being the new WP. -/
def AppendRule (i : Instr) (bs : List Byte) (s : State) : Prop :=
  if s.nb ≠ 0#3 then exec i s = .next (s.badCommand 2)
  else if s.cap.toNat < s.wp.toNat + bs.length then
    exec i s = .next (s.answered 3#3 (BitVec.ofNat 32 (s.wp.toNat + bs.length)) [])
  else s.cap.toNat ≤ Config.bufSize → Appended (exec i s) s bs (s.wp.toNat + bs.length)

/-- `i` reserves a length field whose placeholder bytes are `bs` (R108, R109): the three checks in their order,
then the push and the append, RESULT being the field's offset. -/
def ReserveRule (i : Instr) (kind : FieldKind) (bs : List Byte) (s : State) : Prop :=
  if s.nb ≠ 0#3 then exec i s = .next (s.badCommand 2)
  else if Config.patchDepth ≤ s.pstk.length then exec i s = .next (s.badCommand 4)
  else if s.cap.toNat < s.wp.toNat + bs.length then
    exec i s = .next (s.answered 3#3 (BitVec.ofNat 32 (s.wp.toNat + bs.length)) [])
  else s.cap.toNat ≤ Config.bufSize → ∃ t : State, exec i s = .next t ∧ Stored s.buf t.buf s.wp.toNat bs ∧
    t = { s with
          buf := t.buf
          wp := BitVec.ofNat 16 (s.wp.toNat + bs.length)
          pstk := ⟨s.wp, kind⟩ :: s.pstk
          encValid := false }.answered 0#3 (BitVec.ofNat 32 s.wp.toNat) []

/-- Commands one after another, up to the first that does not end with OK (R96). -/
def runAll : List Instr → State → Out
  | [], s => .next s
  | i :: is, s =>
    match exec i s with
    | .next t => if t.status = 0#3 then runAll is t else .next t
    | o => o

/-! ### What `create` admits, said without the meaning's own check -/

/-- The registered tags (R9). -/
def registeredTags : List Byte :=
  [0x40#8, 0x41#8, 0x43#8, 0x44#8, 0x4A#8, 0x4D#8, 0x4E#8, 0x5A#8, 0x5B#8, 0x5E#8, 0x5F#8, 0x62#8, 0x64#8,
   0x7F#8]

/-- A tag that selects a kind (R191). -/
def knownTag (tag : Byte) : Bool := registeredTags.contains tag || 0x80 ≤ tag.toNat

/-- The status code and information value with which `create(tag, p)` fails, if it does (R192, R270 to R273). -/
def admitError (tag : Byte) (p : List Byte) : Option (BitVec 3 × Nat) :=
  if knownTag tag = false then some (2#3, tag.toNat)
  else if 255 < p.length then some (1#3, p.length)
  else if (parseKind tag p).isNone then some (1#3, 0)
  else none

/-- A stored descriptor (R23). -/
abbrev Admitted (d : Descriptor) : Prop := admitError d.tag d.payload = none

/-- What a command answers that `create(tag, p)` does not admit, or `ok` (R192, R272, R273). -/
def admitted (tag : Byte) (p : List Byte) (s ok : State) : State :=
  match admitError tag p with
  | some (code, n) => s.answered code (BitVec.ofNat 32 n) []
  | none => ok

/-! ### Sections, packets and checksums -/

/-- SEC.ENC's checks pass (R206), and every stored payload fits its 8-bit length (R23). -/
abbrev SecReady (cap : Half) (s : State) : Prop :=
  cap.toNat ≤ Config.bufSize ∧ s.valid = true ∧ secSize Config.entityDescLen s ≤ Config.maxSection ∧
    secSize Config.entityDescLen s ≤ cap.toNat ∧ (∀ d ∈ s.descs, d.payload.length ≤ 255) ∧
    ∀ e ∈ s.ents, ∀ d ∈ e.descs, d.payload.length ≤ 255

/-- `s` after SEC.ENC, but for the contents of BUF (R206). -/
def State.sectionDone (s : State) (cap : Half) (n : Nat) (buf : Memory) : State :=
  { s with
    buf := buf
    wp := BitVec.ofNat 16 n
    cap := cap
    pstk := []
    nb := 0#3
    bv := 0#7
    encValid := true
    encLen := BitVec.ofNat 16 n }.answered 0#3 (BitVec.ofNat 32 n) []

/-- Byte `j` of the Segment of a section of `l` bytes in BUF (R252): pointer_field, section, stuffing. -/
def streamByte (m : Memory) (l j : Nat) : Option Byte :=
  if j = 0 then some 0x00#8 else if j ≤ l then Memory.read m (j - 1) else some 0xFF#8

/-- `o` holds the packets of the section of `l` bytes in `m` (R81, R252), and nothing behind them. -/
def PacketsIn (o : Memory) (pid : BitVec 13) (m : Memory) (l : Nat) : Prop :=
  (∀ k : Nat, k < (l + 184) / 184 →
    Memory.read o (188 * k) = some 0x47#8 ∧
    Memory.read o (188 * k + 1) = some (BitVec.ofNat 8 ((if k = 0 then 0x40 else 0) + pid.toNat / 256)) ∧
    Memory.read o (188 * k + 2) = some (BitVec.ofNat 8 (pid.toNat % 256)) ∧
    Memory.read o (188 * k + 3) = some 0x10#8 ∧
    ∀ j : Nat, j < 184 → Memory.read o (188 * k + 4 + j) = streamByte m l (184 * k + j)) ∧
  ∀ a : Nat, (l + 184) / 184 * 188 ≤ a → Memory.read o a = none

/-- One message bit (R230): bit `i` of the byte `b`, in the rule's own arithmetic. -/
def crcSpecBit (b c i : Nat) : Nat :=
  if (c / 2 ^ 31 + b / 2 ^ i) % 2 = 1 then (c * 2 % 2 ^ 32) ^^^ 0x04C11DB7 else c * 2 % 2 ^ 32

/-- `crc32(m)` in the arithmetic of R230. -/
def crcSpec (m : List Byte) : Nat :=
  m.foldl (fun c b => [7, 6, 5, 4, 3, 2, 1, 0].foldl (crcSpecBit b.toNat) c) 0xFFFFFFFF

/-- One shift of the register (R234), in the rule's own arithmetic. -/
def crcSpecShift (c : Nat) : Nat :=
  if c / 2 ^ 31 % 2 = 1 then (c * 2 % 2 ^ 32) ^^^ 0x04C11DB7 else c * 2 % 2 ^ 32

/-! ### Frames -/

/-- The opcodes (R73). -/
def opcodes : List Byte :=
  [0x01#8, 0x02#8, 0x03#8, 0x10#8, 0x11#8, 0x12#8, 0x13#8, 0x14#8, 0x15#8, 0x16#8, 0x17#8, 0x18#8, 0x20#8,
   0x21#8, 0x22#8, 0x30#8, 0x31#8, 0x32#8, 0x33#8, 0x34#8, 0x35#8, 0x40#8, 0x50#8, 0x51#8]

/-- The bytes `r` after the opcode have the length that opcode and count determine (R70, R73). -/
def frameLengthOk (op : Byte) (r : List Byte) : Bool :=
  match operandBytes op.toNat with
  | none => false
  | some k =>
    if hasBytes op.toNat then
      match r.drop (k - 2) with
      | a :: b :: p => p.length == (u16 a b).toNat
      | _ => false
    else r.length == k

/-! ### Which command touches what, and raises what -/

/-- The columns of R37 that a command may write. -/
structure Touch where
  sRegs : Bool := false
  sLists : Bool := false
  buf : Bool := false
  wp : Bool := false
  cap : Bool := false
  pstk : Bool := false
  bacc : Bool := false
  enc : Bool := false
  obuf : Bool := false

/-- R37, the `w` of each row; DESC.ENC leaves PSTK as it was (R138). A pseudo-instruction writes what its commands
write (R96), a wire pattern what an append writes (log entry 6). -/
def touch : Instr → Touch
  | .csrRd _ | .bufRd _ _ | .obufRd _ _ | .descSize _ _ | .descDec _ _ | .secSize | .crcCalc _ _ | .pktSize => {}
  | .asmReset _ => { buf := true, wp := true, cap := true, pstk := true, bacc := true, enc := true }
  | .asmPut8 _ | .asmPut16 _ | .asmPut32 _ | .asmPutn _ => { buf := true, wp := true, enc := true }
  | .asmPutf _ _ => { buf := true, wp := true, bacc := true, enc := true }
  | .asmRsv8 | .asmRsv12 _ => { buf := true, wp := true, pstk := true, enc := true }
  | .asmPatch => { buf := true, pstk := true, enc := true }
  | .descEnc _ _ => { buf := true, wp := true, enc := true }
  | .secInit _ _ _ _ => { sRegs := true, sLists := true, enc := true }
  | .secAddd _ _ | .secAdde _ _ | .entAddd _ _ _ => { sLists := true, enc := true }
  | .secEnc _ => { buf := true, wp := true, cap := true, pstk := true, bacc := true, enc := true }
  | .pktEnc _ => { obuf := true }
  | .packNetworkName _ | .packServiceList _ | .packSatDelivery _ | .packCableDelivery _ | .packLinkage _
  | .packShortEvent _ | .packExtendedEvent _ | .packTerrDelivery _ | .packMlNetworkName _ | .packMlComponent _
  | .packPrivateDataSpec _ | .packFrequencyList _ | .packDataBroadcast _ | .packExtension _ _
  | .packExtensionT2 _ | .packOpaque _ _ => { buf := true, wp := true, pstk := true, bacc := true, enc := true }
  | .wireDescriptor _ _ | .wireLengthWord _ _ | .wireSectionHeader _ _ _ _ | .wireEntityHeader _ _
  | .wireCrcTrailer _ | .wireTsHeader _ _ | .wirePointerField => { buf := true, wp := true, enc := true }

/-- Every column that `w` does not name is the same in `s` and `t`. -/
structure Untouched (w : Touch) (s t : State) : Prop where
  sRegs : w.sRegs = false → t.valid = s.valid ∧ t.tableId = s.tableId ∧ t.networkId = s.networkId ∧
    t.version = s.version ∧ t.pid = s.pid
  sLists : w.sLists = false → t.descs = s.descs ∧ t.ents = s.ents
  buf : w.buf = false → t.buf = s.buf
  wp : w.wp = false → t.wp = s.wp
  cap : w.cap = false → t.cap = s.cap
  pstk : w.pstk = false → t.pstk = s.pstk
  bacc : w.bacc = false → t.nb = s.nb ∧ t.bv = s.bv
  enc : w.enc = false → t.encValid = s.encValid ∧ t.encLen = s.encLen
  obuf : w.obuf = false → t.obuf = s.obuf ∧ t.olen = s.olen
  port : t.port = s.port

/-- The error kinds (status codes) other than BadCommand, and the BadCommand reasons, that a command may end with
(R271), the frame's own reasons apart. A pseudo-instruction may raise what its commands raise (R96), a wire pattern
what an append raises (log entry 6, DESIGN CHOICE: R271 has no row for it). -/
def mayRaise : Instr → List (BitVec 3) × List Nat
  | .csrRd _ => ([], [3])
  | .bufRd _ _ | .obufRd _ _ => ([], [6])
  | .asmReset _ => ([], [3])
  | .asmPut8 _ | .asmPut16 _ | .asmPut32 _ | .asmPutn _ => ([3#3], [2])
  | .asmPutf _ _ => ([3#3], [3])
  | .asmRsv8 => ([3#3], [2, 4])
  | .asmRsv12 _ => ([3#3], [2, 3, 4])
  | .asmPatch => ([1#3], [2, 5])
  | .descSize _ _ => ([1#3, 2#3], [])
  | .descEnc _ _ => ([1#3, 2#3, 3#3], [2, 4])
  | .descDec _ _ => ([1#3, 2#3, 5#3], [])
  | .secInit _ _ _ _ => ([], [3])
  | .secAddd _ _ => ([1#3, 2#3], [7])
  | .secAdde _ _ => ([], [7])
  | .entAddd _ _ _ => ([1#3, 2#3], [3, 7])
  | .secSize => ([], [7])
  | .secEnc _ => ([3#3, 4#3], [3, 7])
  | .crcCalc _ _ => ([], [2, 6])
  | .pktSize => ([], [7])
  | .pktEnc _ => ([3#3], [3, 7])
  | .packNetworkName _ | .packServiceList _ | .packSatDelivery _ | .packCableDelivery _ | .packLinkage _
  | .packShortEvent _ | .packExtendedEvent _ | .packTerrDelivery _ | .packMlNetworkName _ | .packMlComponent _
  | .packPrivateDataSpec _ | .packFrequencyList _ | .packDataBroadcast _ | .packExtension _ _
  | .packExtensionT2 _ | .packOpaque _ _ => ([1#3, 3#3], [2, 4])
  | .wireDescriptor _ _ | .wireLengthWord _ _ | .wireSectionHeader _ _ _ _ | .wireEntityHeader _ _
  | .wireCrcTrailer _ | .wireTsHeader _ _ | .wirePointerField => ([3#3], [2])

/-- ENC_VALID after a successful command (R29). -/
def encAfter (i : Instr) (before : Bool) : Bool :=
  match i with
  | .secEnc _ => true
  | _ => if (touch i).enc then false else before

/-! ### The invariant -/

/-- What every state a run reaches satisfies. -/
structure Inv (s : State) : Prop where
  /-- Cells 0..WP−1 of BUF are written, cells from WP up are not, and the list is canonical (R26). -/
  bufCells : s.buf.map Prod.fst = List.range s.wp.toNat
  /-- WP ≤ CAP (R26). -/
  wpLeCap : s.wp.toNat ≤ s.cap.toNat
  /-- CAP ≤ BUF_SIZE (R26). -/
  capLeSize : s.cap.toNat ≤ Config.bufSize
  /-- At most PATCH_DEPTH open fields (R27). -/
  depth : s.pstk.length ≤ Config.patchDepth
  /-- Offsets strictly increase from bottom to top (R27). -/
  pstkRising : s.pstk.Pairwise fun upper lower => lower.off.toNat < upper.off.toNat
  /-- off + fsize(kind) ≤ WP for every entry (R27). -/
  pstkWritten : ∀ e ∈ s.pstk, e.off.toNat + fsize e.kind ≤ s.wp.toNat
  /-- BACC.bv < 2^nb (R28). -/
  bacc : s.bv.toNat < 2 ^ s.nb.toNat
  /-- Cells 0..OLEN−1 of OBUF are written, the others are not, and the list is canonical (R30). -/
  obufCells : s.obuf.map Prod.fst = List.range s.olen.toNat
  /-- OLEN ≤ OBUF_SIZE (R30). -/
  olenLeSize : s.olen.toNat ≤ Config.obufSize
  /-- OLEN is a multiple of 188 (R30). -/
  olenPackets : s.olen.toNat % Config.packetSize = 0
  /-- Status code 7 is never produced (R270). -/
  statusKnown : s.status ≠ 7#3
  /-- Every stored descriptor was admitted by `create` (R23). -/
  descsAdmitted : ∀ d ∈ s.descs, Admitted d
  /-- The same for every entity's descriptors (R23). -/
  entsAdmitted : ∀ e ∈ s.ents, ∀ d ∈ e.descs, Admitted d
  /-- ENC_VALID = 1 implies S.valid = 1, WP = ENC_LEN, PSTK empty, BACC.nb = 0 (R29, R258). -/
  encClosed : s.encValid = true → s.valid = true ∧ s.wp = s.encLen ∧ s.pstk = [] ∧ s.nb = 0#3
  /-- ENC_VALID = 1 implies 16 ≤ ENC_LEN ≤ MAX_SECTION (R258). -/
  encBounds : s.encValid = true → 16 ≤ s.encLen.toNat ∧ s.encLen.toNat ≤ Config.maxSection
  /-- ENC_VALID = 1 implies that BUF[0..ENC_LEN) is the encoding of the current S (R29, R258). -/
  encCurrent : s.encValid = true →
    Memory.readBytes s.buf 0 s.encLen.toNat = some (sectionLayout Config.entityDescLen s)

/-- A safe run: the step answers a next state that is safe again. -/
def SafeStep (s : State) : Prop := ∃ t : State, step s = .next t ∧ Inv t

end Sys2Proof.Machine
end

