-- ==== Sys2Proof/Certificates/Slice0/Obligations.lean ====
section
/-! DEFINITION. The statements for the provers, read off the numbered rules of the spec. In each, `exec i s = .next …` as a
conclusion says that the command completes, and the state after it is given in full: what is not named there is unchanged. -/

open Sys2Proof Sys2Proof.Machine

/-! ### Reading state back -/

/-- R284, R32: CSR.RD. The words of R32's table are written as numbers. -/
def Obligations.CsrReadGivesTheNumberedRegister : Prop :=
  ∀ (s : State) (n : Byte), s.pstk.length ≤ Config.patchDepth →
    decodeFrame [0x01#8, n] = .ok (.csrRd n) ∧
    (12 < n.toNat → exec (.csrRd n) s = .next (s.badCommand 3)) ∧
    ∀ v : Nat,
      [0x47533933, s.status.toNat, s.result.toNat, s.wp.toNat, s.cap.toNat, s.pstk.length,
       s.nb.toNat * 2 ^ 8 + s.bv.toNat, s.encValid.toNat * 2 ^ 31 + s.encLen.toNat, s.olen.toNat,
       s.valid.toNat * 2 ^ 31 + s.version.toNat * 2 ^ 24 + s.tableId.toNat * 2 ^ 16 + s.networkId.toNat,
       s.pid.toNat, s.descs.length % 65536, s.ents.length % 65536][n.toNat]? = some v →
      exec (.csrRd n) s = .next (s.answered 0#3 (BitVec.ofNat 32 v) [])

/-- R113: BUF.RD. -/
def Obligations.BufRdReturnsWrittenCells : Prop :=
  ∀ (s : State) (off n : Half), WrittenUpTo s.buf s.wp.toNat →
    decodeFrame (0x02#8 :: (be16 off ++ be16 n)) = .ok (.bufRd off n) ∧
    if off.toNat + n.toNat ≤ s.wp.toNat then
      ∃ data : List Byte, data.length = n.toNat ∧
        (∀ i : Nat, i < n.toNat → Memory.read s.buf (off.toNat + i) = data[i]?) ∧
        exec (.bufRd off n) s = .next (s.answered 0#3 (BitVec.ofNat 32 n.toNat) data)
    else exec (.bufRd off n) s = .next (s.badCommand 6)

/-- R256: OBUF.RD. -/
def Obligations.ObufRdReturnsWrittenCells : Prop :=
  ∀ (s : State) (off n : Half), WrittenUpTo s.obuf s.olen.toNat →
    decodeFrame (0x03#8 :: (be16 off ++ be16 n)) = .ok (.obufRd off n) ∧
    if off.toNat + n.toNat ≤ s.olen.toNat then
      ∃ data : List Byte, data.length = n.toNat ∧
        (∀ i : Nat, i < n.toNat → Memory.read s.obuf (off.toNat + i) = data[i]?) ∧
        exec (.obufRd off n) s = .next (s.answered 0#3 (BitVec.ofNat 32 n.toNat) data)
    else exec (.obufRd off n) s = .next (s.badCommand 6)

/-! ### The assembly unit -/

/-- R101: ASM.RESET. -/
def Obligations.AsmResetEmptiesTheAssembly : Prop :=
  ∀ (s : State) (cap : Half),
    decodeFrame (0x10#8 :: be16 cap) = .ok (.asmReset cap) ∧
    exec (.asmReset cap) s =
      if cap.toNat ≤ 4096 then
        .next ({ s with buf := [], wp := 0#16, cap := cap, pstk := [], nb := 0#3, bv := 0#7,
                        encValid := false }.answered 0#3 0#32 [])
      else .next (s.badCommand 3)

/-- R102 to R105: the four commands that append whole bytes. -/
def Obligations.PutCommandsAppendBigEndian : Prop :=
  ∀ s : State,
    (∀ v : Byte, decodeFrame [0x11#8, v] = .ok (.asmPut8 v) ∧ AppendRule (.asmPut8 v) [v] s) ∧
    (∀ v : Half, decodeFrame (0x12#8 :: bigEndian 2 v.toNat) = .ok (.asmPut16 v) ∧
      AppendRule (.asmPut16 v) (bigEndian 2 v.toNat) s) ∧
    (∀ v : Word, decodeFrame (0x13#8 :: bigEndian 4 v.toNat) = .ok (.asmPut32 v) ∧
      AppendRule (.asmPut32 v) (bigEndian 4 v.toNat) s) ∧
    ∀ b : List Byte, (b.length ≤ 65535 →
        decodeFrame (0x14#8 :: (bigEndian 2 b.length ++ b)) = .ok (.asmPutn b)) ∧
      AppendRule (.asmPutn b) b s

/-- R106: ASM.PUTF. -/
def Obligations.PutfAppendsAField : Prop :=
  ∀ (s : State) (w : Byte) (v : Word),
    decodeFrame (0x15#8 :: w :: bigEndian 4 v.toNat) = .ok (.asmPutf w v) ∧
    if 1 ≤ w.toNat ∧ w.toNat ≤ 32 ∧ v.toNat < 2 ^ w.toNat then
      let acc := s.bv.toNat * 2 ^ w.toNat + v.toNat
      let k := (s.nb.toNat + w.toNat) / 8
      let r := (s.nb.toNat + w.toNat) % 8
      if s.cap.toNat < s.wp.toNat + k then
        exec (.asmPutf w v) s = .next (s.answered 3#3 (BitVec.ofNat 32 (s.wp.toNat + k)) [])
      else s.cap.toNat ≤ 4096 →
        ∃ t : State, exec (.asmPutf w v) s = .next t ∧
          Stored s.buf t.buf s.wp.toNat (bigEndian k (acc / 2 ^ r)) ∧
          t = { s with
                buf := t.buf
                wp := BitVec.ofNat 16 (s.wp.toNat + k)
                nb := BitVec.ofNat 3 r
                bv := BitVec.ofNat 7 (acc % 2 ^ r)
                encValid := false }.answered 0#3 (BitVec.ofNat 32 (s.wp.toNat + k)) []
    else exec (.asmPutf w v) s = .next (s.badCommand 3)

/-- R107: the law of the bit packer. A sequence of fields of `8q` bits in all, from a byte boundary, appends exactly the
`q` bytes of the concatenated number; and how a layout is split into fields does not matter. -/
def Obligations.BitPackerConcatenatesFields : Prop :=
  (∀ (s : State) (fs : List (Byte × Word)) (q : Nat), fs ≠ [] →
    (∀ f ∈ fs, 1 ≤ f.1.toNat ∧ f.1.toNat ≤ 32 ∧ f.2.toNat < 2 ^ f.1.toNat) →
    (fs.map fun f => f.1.toNat).sum = 8 * q → s.bv = 0#7 → Room s q →
    ∃ t : State, runAll (fs.map fun f => .asmPutf f.1 f.2) s = .next t ∧
      Stored s.buf t.buf s.wp.toNat
        (bigEndian q (fs.foldl (fun n f => n * 2 ^ f.1.toNat + f.2.toNat) 0)) ∧
      t = { s with buf := t.buf, wp := BitVec.ofNat 16 (s.wp.toNat + q), encValid := false }.answered
        0#3 (BitVec.ofNat 32 (s.wp.toNat + q)) []) ∧
  ∀ (s : State) (a b : Byte) (x y : Word), 1 ≤ a.toNat → 1 ≤ b.toNat → a.toNat + b.toNat ≤ 32 →
    x.toNat < 2 ^ a.toNat → y.toNat < 2 ^ b.toNat → s.bv.toNat < 2 ^ s.nb.toNat →
    s.wp.toNat + (s.nb.toNat + a.toNat + b.toNat) / 8 ≤ s.cap.toNat → s.cap.toNat ≤ Config.bufSize →
    ∃ t u : State, runAll [.asmPutf a x, .asmPutf b y] s = .next t ∧
      exec (.asmPutf (a + b) (BitVec.ofNat 32 (x.toNat * 2 ^ b.toNat + y.toNat))) s = .next u ∧
      (∀ k : Nat, Memory.read t.buf k = Memory.read u.buf k) ∧ t = { u with buf := t.buf }

/-- R108: ASM.RSV8. -/
def Obligations.Rsv8ReservesALengthByte : Prop :=
  ∀ s : State, decodeFrame [0x16#8] = .ok .asmRsv8 ∧ ReserveRule .asmRsv8 .w8 [0x00#8] s

/-- R109: ASM.RSV12. -/
def Obligations.Rsv12ReservesALengthWord : Prop :=
  ∀ (s : State) (hi : Byte),
    decodeFrame [0x17#8, hi] = .ok (.asmRsv12 hi) ∧
    if hi.toNat ≤ 15 then ReserveRule (.asmRsv12 hi) .w12 [BitVec.ofNat 8 (hi.toNat * 16), 0x00#8] s
    else exec (.asmRsv12 hi) s = .next (s.badCommand 3)

/-- R110: ASM.PATCH. -/
def Obligations.PatchWritesTheCount : Prop :=
  ∀ s : State,
    decodeFrame [0x18#8] = .ok .asmPatch ∧
    (s.nb ≠ 0#3 → exec .asmPatch s = .next (s.badCommand 2)) ∧
    (s.nb = 0#3 → s.pstk = [] → exec .asmPatch s = .next (s.badCommand 5)) ∧
    ∀ (e : PatchEntry) (rest : List PatchEntry), s.nb = 0#3 → s.pstk = e :: rest →
      e.off.toNat + fsize e.kind ≤ s.wp.toNat → s.wp.toNat ≤ 4096 → WrittenUpTo s.buf s.wp.toNat →
      let n := s.wp.toNat - e.off.toNat - fsize e.kind
      if n ≤ (match e.kind with | .w8 => 255 | .w12 => 4095) then
        ∃ (t : State) (b0 : Byte), exec .asmPatch s = .next t ∧ Memory.read s.buf e.off.toNat = some b0 ∧
          Stored s.buf t.buf e.off.toNat
            (match e.kind with
             | .w8 => [BitVec.ofNat 8 n]
             | .w12 => [BitVec.ofNat 8 (b0.toNat / 16 * 16 + n / 256), BitVec.ofNat 8 (n % 256)]) ∧
          t = { s with buf := t.buf, pstk := rest, encValid := false }.answered 0#3 (BitVec.ofNat 32 n) []
      else exec .asmPatch s = .next (s.answered 1#3 (BitVec.ofNat 32 n) [])

/-- The two-pass pattern (R108 to R112): reserving a field, appending any body in any pieces, and patching leaves the body
behind its own exact length, whatever the nesting. -/
def Obligations.TwoPassPatternPrefixesTheLength : Prop :=
  ∀ (s : State) (body : List (List Byte)), s.pstk.length < 8 →
    (body.flatten.length ≤ 255 → Room s (1 + body.flatten.length) →
      Appended (runAll (.asmRsv8 :: body.map .asmPutn ++ [.asmPatch]) s) s
        (BitVec.ofNat 8 body.flatten.length :: body.flatten) body.flatten.length) ∧
    ∀ hi : Byte, hi.toNat ≤ 15 → Room s (2 + body.flatten.length) →
      Appended (runAll (.asmRsv12 hi :: body.map .asmPutn ++ [.asmPatch]) s) s
        (BitVec.ofNat 8 (hi.toNat * 16 + body.flatten.length / 256) ::
          BitVec.ofNat 8 (body.flatten.length % 256) :: body.flatten)
        body.flatten.length

/-! ### The descriptor codec and the registry -/

/-- R191: `lookup`. -/
def Obligations.LookupHasThreeArms : Prop :=
  ∀ tag : Byte,
    (∀ k : Kind,
      (tag, k) ∈ [(0x40#8, Kind.networkName), (0x41#8, .serviceList), (0x43#8, .satDelivery),
        (0x44#8, .cableDelivery), (0x4A#8, .linkage), (0x4D#8, .shortEvent), (0x4E#8, .extendedEvent),
        (0x5A#8, .terrDelivery), (0x5B#8, .mlNetworkName), (0x5E#8, .mlComponent), (0x5F#8, .privateDataSpec),
        (0x62#8, .frequencyList), (0x64#8, .dataBroadcast), (0x7F#8, .extension)] →
      lookup tag = .ok k) ∧
    (tag ∉ registeredTags → 0x80 ≤ tag.toNat → lookup tag = .ok .opaquePass) ∧
    (tag ∉ registeredTags → tag.toNat < 0x80 → lookup tag = .error (.err (.unknownTag tag)))

/-- R132: the structure check of a kind succeeds exactly where its `parse` is defined. -/
def Obligations.WfHoldsWhereParseIsDefined : Prop :=
  ∀ (tag : Byte) (k : Kind) (p : List Byte), lookup tag = .ok k → p.length ≤ 255 →
    (wfKind k p = true ↔ ∃ i : Instr, parseKind tag p = some i)

/-- R137: DESC.SIZE. -/
def Obligations.DescSizeIsLengthPlusTwo : Prop :=
  ∀ (s : State) (tag : Byte) (p : List Byte),
    (p.length ≤ 65535 →
      decodeFrame (0x20#8 :: tag :: (bigEndian 2 p.length ++ p)) = .ok (.descSize tag p)) ∧
    exec (.descSize tag p) s =
      .next (admitted tag p s (s.answered 0#3 (BitVec.ofNat 32 (p.length + 2)) []))

/-- R138: DESC.ENC. -/
def Obligations.DescEncAppendsTheEncoding : Prop :=
  ∀ (s : State) (tag : Byte) (p : List Byte),
    (p.length ≤ 65535 →
      decodeFrame (0x21#8 :: tag :: (bigEndian 2 p.length ++ p)) = .ok (.descEnc tag p)) ∧
    if s.nb ≠ 0#3 then exec (.descEnc tag p) s = .next (s.badCommand 2)
    else if 8 ≤ s.pstk.length then exec (.descEnc tag p) s = .next (s.badCommand 4)
    else if admitError tag p ≠ none then exec (.descEnc tag p) s = .next (admitted tag p s s)
    else if s.cap.toNat < s.wp.toNat + p.length + 2 then
      exec (.descEnc tag p) s = .next (s.answered 3#3 (BitVec.ofNat 32 (s.wp.toNat + p.length + 2)) [])
    else s.cap.toNat ≤ 4096 →
      Appended (exec (.descEnc tag p) s) s (tag :: BitVec.ofNat 8 p.length :: p) (p.length + 2)

/-- R139: DESC.DEC. -/
def Obligations.DescDecChecksOneDescriptor : Prop :=
  ∀ (s : State) (k : Byte) (b : List Byte),
    (b.length ≤ 65535 → decodeFrame (0x22#8 :: k :: (bigEndian 2 b.length ++ b)) = .ok (.descDec k b)) ∧
    exec (.descDec k b) s = .next
      (if knownTag k = false then s.answered 2#3 (BitVec.ofNat 32 k.toNat) []
       else match b with
         | [] => s.answered 1#3 0#32 []
         | t :: r =>
           if t ≠ k then s.answered 5#3 (BitVec.ofNat 32 t.toNat) []
           else match r with
             | [] => s.answered 1#3 1#32 []
             | l :: p =>
               if b.length ≠ l.toNat + 2 then s.answered 1#3 (BitVec.ofNat 32 b.length) []
               else if parseKind k p = none then s.answered 1#3 0#32 []
               else s.answered 0#3 (BitVec.ofNat 32 l.toNat) [])

/-- R140: the three descriptor commands agree. -/
def Obligations.DescriptorCommandsAgree : Prop :=
  ∀ (tag : Byte) (p : List Byte),
    (∀ s : State, (∃ t : State, exec (.descSize tag p) s = .next t ∧ t.status = 0#3) ↔
      create tag p = .ok ⟨tag, p⟩) ∧
    (create tag p = .ok ⟨tag, p⟩ → ∀ s : State, ∃ t : State, exec (.descSize tag p) s = .next t ∧
      (s.pstk.length < 8 → Room s t.result.toNat →
        ∃ bs : List Byte, bs.length = t.result.toNat ∧ bs = encodeTlv (tag, p) ∧
          Appended (exec (.descEnc tag p) s) s bs t.result.toNat) ∧
      exec (.descDec tag (encodeTlv (tag, p))) s = .next (s.answered 0#3 (BitVec.ofNat 32 p.length) []))

/-! ### The section assembler -/

/-- R200: SEC.INIT. -/
def Obligations.SecInitStartsAnEmptySection : Prop :=
  ∀ (s : State) (tableId : Byte) (networkId : Half) (version : Byte) (pid : Half),
    decodeFrame (0x30#8 :: tableId :: (be16 networkId ++ version :: be16 pid)) =
      .ok (.secInit tableId networkId version pid) ∧
    exec (.secInit tableId networkId version pid) s =
      if version.toNat ≤ 31 ∧ pid.toNat ≤ 0x1FFF then
        .next ({ s with
                 tableId := tableId
                 networkId := networkId
                 version := BitVec.ofNat 5 version.toNat
                 pid := BitVec.ofNat 13 pid.toNat
                 descs := []
                 ents := []
                 valid := true
                 encValid := false }.answered 0#3 0#32 [])
      else .next (s.badCommand 3)

/-- R201: SEC.ADDD. `v` is RESULT: the new length of the list, where 32 bits hold it (R31). -/
def Obligations.SecAdddAppendsADescriptor : Prop :=
  ∀ (s : State) (tag : Byte) (p : List Byte),
    (p.length ≤ 65535 →
      decodeFrame (0x31#8 :: tag :: (bigEndian 2 p.length ++ p)) = .ok (.secAddd tag p)) ∧
    ∃ v : Word, (s.descs.length + 1 < 2 ^ 32 → v = BitVec.ofNat 32 (s.descs.length + 1)) ∧
      exec (.secAddd tag p) s =
        if s.valid = true then
          .next (admitted tag p s
            ({ s with descs := s.descs ++ [Descriptor.mk tag p], encValid := false }.answered 0#3 v []))
        else .next (s.badCommand 7)

/-- R202: SEC.ADDE. `v` is RESULT: the handle, where 32 bits hold it. -/
def Obligations.SecAddeReturnsTheHandle : Prop :=
  ∀ (s : State) (tsId onId : Half),
    decodeFrame (0x32#8 :: (be16 tsId ++ be16 onId)) = .ok (.secAdde tsId onId) ∧
    ∃ v : Word, (s.ents.length < 2 ^ 32 → v = BitVec.ofNat 32 s.ents.length) ∧
      exec (.secAdde tsId onId) s =
        if s.valid = true then
          .next ({ s with ents := s.ents ++ [Entity.mk tsId onId []], encValid := false }.answered 0#3 v [])
        else .next (s.badCommand 7)

/-- R203: ENT.ADDD. `v` is RESULT: the new length of that entity's list, where 32 bits hold it. -/
def Obligations.EntAdddExtendsOneEntity : Prop :=
  ∀ (s : State) (h : Half) (tag : Byte) (p : List Byte),
    (p.length ≤ 65535 →
      decodeFrame (0x33#8 :: (be16 h ++ tag :: (bigEndian 2 p.length ++ p))) = .ok (.entAddd h tag p)) ∧
    if s.valid = true then
      (s.ents.length ≤ h.toNat → exec (.entAddd h tag p) s = .next (s.badCommand 3)) ∧
      ∀ e : Entity, s.ents[h.toNat]? = some e →
        ∃ v : Word, (e.descs.length + 1 < 2 ^ 32 → v = BitVec.ofNat 32 (e.descs.length + 1)) ∧
          exec (.entAddd h tag p) s = .next (admitted tag p s
            ({ s with
               ents := s.ents.take h.toNat ++
                 Entity.mk e.tsId e.onId (e.descs ++ [Descriptor.mk tag p]) :: s.ents.drop (h.toNat + 1)
               encValid := false }.answered 0#3 v []))
    else exec (.entAddd h tag p) s = .next (s.badCommand 7)

/-- R204, R205: SEC.SIZE, for both values of ENTITY_DESC_LEN. `v` is RESULT: the size, where 32 bits hold it. -/
def Obligations.SecSizeIsTheEncodedSize : Prop :=
  ∀ s : State,
    decodeFrame [0x34#8] = .ok .secSize ∧
    let dsize := fun (ds : List Descriptor) => (ds.map fun d => d.payload.length + 2).sum
    let size := 8 + (2 + dsize s.descs) +
      (2 + (s.ents.map fun e => 4 + (if Config.entityDescLen then 2 else 0) + dsize e.descs).sum) + 4
    ∃ v : Word, (size < 2 ^ 32 → v = BitVec.ofNat 32 size) ∧
      exec .secSize s = if s.valid = true then .next (s.answered 0#3 v []) else .next (s.badCommand 7)

/-- R206, R78: SEC.ENC checks in order, and leaves the section of R78 in BUF, for both values of ENTITY_DESC_LEN. -/
def Obligations.SecEncWritesTheSection : Prop :=
  ∀ (s : State) (cap : Half),
    decodeFrame (0x35#8 :: be16 cap) = .ok (.secEnc cap) ∧
    let n := secSize Config.entityDescLen s
    if 4096 < cap.toNat then exec (.secEnc cap) s = .next (s.badCommand 3)
    else if s.valid = false then exec (.secEnc cap) s = .next (s.badCommand 7)
    else if 1024 < n then exec (.secEnc cap) s = .next (s.answered 4#3 (BitVec.ofNat 32 n) [])
    else if cap.toNat < n then exec (.secEnc cap) s = .next (s.answered 3#3 (BitVec.ofNat 32 n) [])
    else SecReady cap s →
      ∃ buf : Memory, exec (.secEnc cap) s = .next (s.sectionDone cap n buf) ∧
        Memory.readBytes buf 0 n = some (sectionLayout Config.entityDescLen s) ∧
        (sectionLayout Config.entityDescLen s).length = n ∧
        ∀ a : Nat, n ≤ a → Memory.read buf a = none

/-- R207 (a) to (d): what SEC.ENC answers and leaves agrees with SEC.SIZE, the CRC and each region's length, whatever the
capacity. -/
def Obligations.SectionLengthsAndChecksumAgree : Prop :=
  ∀ (s : State) (cap cap' : Half), SecReady cap s → SecReady cap' s →
    ∃ (t t' u : State) (bs : List Byte),
      exec (.secEnc cap) s = .next t ∧ exec (.secEnc cap') s = .next t' ∧ exec .secSize s = .next u ∧
      Memory.readBytes t.buf 0 bs.length = some bs ∧ Memory.readBytes t'.buf 0 bs.length = some bs ∧
      u.status = 0#3 ∧ t.status = 0#3 ∧ t.result = u.result ∧ t.result.toNat = bs.length ∧
      t.wp.toNat = bs.length ∧ t.encLen.toNat = bs.length ∧ 16 ≤ bs.length ∧
      bs.drop (bs.length - 4) = bigEndian 4 (crcSpec (bs.take (bs.length - 4))) ∧
      (∀ a b : Byte, bs[1]? = some a → bs[2]? = some b → (a.toNat * 256 + b.toNat) % 4096 = bs.length - 3) ∧
      (∀ a b : Byte, bs[8]? = some a → bs[9]? = some b → (a.toNat * 256 + b.toNat) % 4096 = dsize s.descs) ∧
      ∀ a b : Byte, bs[10 + dsize s.descs]? = some a → bs[11 + dsize s.descs]? = some b →
        (a.toNat * 256 + b.toNat) % 4096 = bs.length - 16 - dsize s.descs

/-! ### The CRC engine -/

/-- R230: the checksum in the rule's own arithmetic. -/
def Obligations.CrcIsBitSerial : Prop := ∀ m : List Byte, (crc32 m).toNat = crcSpec m

/-- R232: CRC.CALC. -/
def Obligations.CrcCalcChecksumsARange : Prop :=
  ∀ (s : State) (off len : Half), WrittenUpTo s.buf s.wp.toNat →
    decodeFrame (0x40#8 :: (be16 off ++ be16 len)) = .ok (.crcCalc off len) ∧
    if s.nb ≠ 0#3 then exec (.crcCalc off len) s = .next (s.badCommand 2)
    else if s.wp.toNat < off.toNat + len.toNat then exec (.crcCalc off len) s = .next (s.badCommand 6)
    else ∃ m : List Byte, m.length = len.toNat ∧
      (∀ i : Nat, i < len.toNat → Memory.read s.buf (off.toNat + i) = m[i]?) ∧
      exec (.crcCalc off len) s = .next (s.answered 0#3 (BitVec.ofNat 32 (crcSpec m)) [])

/-- R233: a byte at a time. -/
def Obligations.CrcByteAtATime : Prop :=
  ∀ m : List Byte, m.foldl crcByteAtOnce Config.crcInit ^^^ Config.crcXorOut = crc32 m

/-- R234: the table is what the generator makes of CRC_POLY, and it is linear. -/
def Obligations.CrcTableIsLinear : Prop :=
  crcTable.length = 256 ∧ crcTable[0]? = some 0x00000000#32 ∧ crcTable[1]? = some 0x04C11DB7#32 ∧
  (∀ i : Byte, crcTable[i.toNat]? = some (BitVec.ofNat 32 (crcSpecShift^[8] (i.toNat * 2 ^ 24)))) ∧
  ∀ (i j : Byte) (x y : Word), crcTable[i.toNat]? = some x → crcTable[j.toNat]? = some y →
    crcTable[(i ^^^ j).toNat]? = some (x ^^^ y)

/-- R237: the table-driven engine computes the same checksum. -/
def Obligations.CrcTableDrivenAgrees : Prop := ∀ m : List Byte, crc32Table m = crc32 m

/-- R238: the residue law. -/
def Obligations.CrcOfMessageWithItsCrcIsZero : Prop := ∀ m : List Byte, crc32 (m ++ be32 (crc32 m)) = 0#32

/-- R96: CRC.APPEND, which the opcode table has no row for. -/
def Obligations.CrcAppendAppendsTheChecksum : Prop :=
  ∀ s : State, WrittenUpTo s.buf s.wp.toNat →
    (s.nb ≠ 0#3 → execCrcAppend s = .next (s.badCommand 2)) ∧
    (s.nb = 0#3 → s.cap.toNat < s.wp.toNat + 4 →
      execCrcAppend s = .next (s.answered 3#3 (BitVec.ofNat 32 (s.wp.toNat + 4)) [])) ∧
    (Room s 4 → ∃ m : List Byte, Memory.readBytes s.buf 0 s.wp.toNat = some m ∧
      Appended (execCrcAppend s) s (bigEndian 4 (crcSpec m)) (s.wp.toNat + 4))

/-! ### The packetizer -/

/-- R250: the packet count. -/
def Obligations.PacketCountCoversTheSection : Prop :=
  (∀ l : Nat, (npkt l - 1) * 184 < l + 1 ∧ l + 1 ≤ npkt l * 184) ∧
  (∀ l : Nat, 16 ≤ l → l ≤ 1024 → 1 ≤ npkt l ∧ npkt l ≤ 6 ∧ npkt l * 188 ≤ 1128) ∧
  [0, 16, 183, 184, 367, 368, 1024].map npkt = [1, 1, 1, 2, 2, 3, 6]

/-- R251: PKT.SIZE. -/
def Obligations.PktSizeCountsPacketBytes : Prop :=
  ∀ s : State,
    decodeFrame [0x50#8] = .ok .pktSize ∧
    exec .pktSize s =
      if s.encValid = true then
        .next (s.answered 0#3 (BitVec.ofNat 32 ((s.encLen.toNat + 184) / 184 * 188)) [])
      else .next (s.badCommand 7)

/-- R252: PKT.ENC. -/
def Obligations.PktEncFramesTheSection : Prop :=
  ∀ (s : State) (cap : Half),
    decodeFrame (0x51#8 :: be16 cap) = .ok (.pktEnc cap) ∧
    let n := (s.encLen.toNat + 184) / 184 * 188
    if 1128 < cap.toNat then exec (.pktEnc cap) s = .next (s.badCommand 3)
    else if s.encValid = false then exec (.pktEnc cap) s = .next (s.badCommand 7)
    else if cap.toNat < n then exec (.pktEnc cap) s = .next (s.answered 3#3 (BitVec.ofNat 32 n) [])
    else WrittenUpTo s.buf s.encLen.toNat →
      ∃ obuf : Memory, PacketsIn obuf s.pid s.buf s.encLen.toNat ∧
        exec (.pktEnc cap) s =
          .next ({ s with obuf := obuf, olen := BitVec.ofNat 16 n }.answered 0#3 (BitVec.ofNat 32 n) [])

/-- R307, R252: a successful SEC.ENC followed directly by PKT.ENC with enough capacity cannot fail, and the section comes
back out of the packets' payloads. -/
def Obligations.EncodedSectionCanBePacketized : Prop :=
  ∀ (s : State) (cap cap' : Half), SecReady cap s → cap'.toNat ≤ 1128 →
    (secSize Config.entityDescLen s + 184) / 184 * 188 ≤ cap'.toNat →
    ∃ t : State, runAll [.secEnc cap, .pktEnc cap'] s = .next t ∧ t.status = 0#3 ∧
      t.result.toNat = (secSize Config.entityDescLen s + 184) / 184 * 188 ∧ t.olen.toNat = t.result.toNat ∧
      ∀ i : Nat, i < secSize Config.entityDescLen s →
        Memory.read t.obuf (188 * ((i + 1) / 184) + 4 + (i + 1) % 184) =
          (sectionLayout Config.entityDescLen s)[i]?

/-- R257: the packets depend on nothing but the encoded bytes, their number and the PID; not on the capacity, which limits
nothing but the check (R252). -/
def Obligations.PacketsDependOnlyOnSectionAndPid : Prop :=
  ∀ (s s' : State) (cap cap' : Half), s.buf = s'.buf → s.encLen = s'.encLen → s.pid = s'.pid →
    s.encValid = true → s'.encValid = true → WrittenUpTo s.buf s.encLen.toNat →
    cap.toNat ≤ 1128 → cap'.toNat ≤ 1128 →
    (s.encLen.toNat + 184) / 184 * 188 ≤ cap.toNat → (s.encLen.toNat + 184) / 184 * 188 ≤ cap'.toNat →
    ∃ t t' : State, exec (.pktEnc cap) s = .next t ∧ exec (.pktEnc cap') s' = .next t' ∧
      t.obuf = t'.obuf ∧ t.olen = t'.olen ∧ t.result = t'.result ∧ t.resp = t'.resp

/-! ### The pseudo-instructions -/

/-- The kinds whose fields are whole bytes and that open no field inside the descriptor (R150, R151, R161, R164, R166).
An extension's body is raw, but for tag_extension 0x04 over the bytes of a T2 value, which is put by R165's commands; that
bytes under 0x04 with no such value are put as they stand is the model's choice, and so is that PACK.OPAQUE of a tag below
0x80, which R166 does not give, runs its lines as they stand (log entry 8). -/
def Obligations.PackAppendsByteKinds : Prop :=
  ∀ s : State, s.pstk.length < 8 →
    (∀ text : List Byte, text.length ≤ 255 → Room s (2 + text.length) →
      Appended (exec (.packNetworkName text) s) s (0x40#8 :: BitVec.ofNat 8 text.length :: text) text.length) ∧
    (∀ es : List ServiceEntry, 3 * es.length ≤ 255 → Room s (2 + 3 * es.length) →
      Appended (exec (.packServiceList es) s) s
        (0x41#8 :: BitVec.ofNat 8 (3 * es.length) ::
          es.flatMap fun e => bigEndian 2 e.serviceId.toNat ++ [e.serviceType])
        (3 * es.length)) ∧
    (∀ v : Word, Room s 6 →
      Appended (exec (.packPrivateDataSpec v) s) s (0x5F#8 :: 4#8 :: bigEndian 4 v.toNat) 4) ∧
    (∀ (x : Byte) (body : List Byte), x ≠ 0x04#8 ∨ parseT2 (x :: body) = none → body.length ≤ 254 →
      Room s (3 + body.length) →
      Appended (exec (.packExtension x body) s) s (0x7F#8 :: BitVec.ofNat 8 (1 + body.length) :: x :: body)
        (1 + body.length)) ∧
    (∀ (body : List Byte) (v : T2Delivery), parseT2 (0x04#8 :: body) = some v →
      exec (.packExtension 0x04#8 body) s = exec (.packExtensionT2 v) s) ∧
    ∀ (tag : Byte) (raw : List Byte), raw.length ≤ 255 → Room s (2 + raw.length) →
      Appended (exec (.packOpaque tag raw) s) s (tag :: BitVec.ofNat 8 raw.length :: raw) raw.length

/-- The kinds with bit-packed fields (R152, R153, R154, R162), each layout as one number, earliest field first. The premise on
BACC is R28's own (`Inv.bacc`): with no bits pending, BACC.bv is 0. -/
def Obligations.PackAppendsBitPackedKinds : Prop :=
  ∀ s : State, s.bv.toNat < 2 ^ s.nb.toNat → s.pstk.length < 8 →
    (∀ v : SatDelivery, Room s 13 →
      Appended (exec (.packSatDelivery v) s) s
        (0x43#8 :: 11#8 :: bigEndian 11
          (v.frequency ++ v.orbitalPosition ++ v.westEastFlag ++ v.polarization ++ v.rollOff ++ v.modulationSystem ++
            v.modulationType ++ v.symbolRate ++ v.fecInner : BitVec (32 + 16 + 1 + 2 + 2 + 1 + 2 + 28 + 4)).toNat)
        11) ∧
    (∀ v : CableDelivery, Room s 13 →
      Appended (exec (.packCableDelivery v) s) s
        (0x44#8 :: 11#8 :: bigEndian 11
          (v.frequency ++ 0xFFF#12 ++ v.fecOuter ++ v.modulation ++ v.symbolRate ++ v.fecInner :
            BitVec (32 + 12 + 4 + 8 + 28 + 4)).toNat)
        11) ∧
    (∀ v : TerrDelivery, Room s 13 →
      Appended (exec (.packTerrDelivery v) s) s
        (0x5A#8 :: 11#8 :: bigEndian 11
          (v.centreFrequency ++ v.bandwidth ++ v.priority ++ v.timeSlicingIndicator ++ v.mpeFecIndicator ++ 3#2 ++
            v.constellation ++ v.hierarchyInformation ++ v.codeRateHp ++ v.codeRateLp ++ v.guardInterval ++
            v.transmissionMode ++ v.otherFrequencyFlag ++ 0xFFFFFFFF#32 :
            BitVec (32 + 3 + 1 + 1 + 1 + 2 + 2 + 3 + 3 + 3 + 2 + 2 + 1 + 32)).toNat)
        11) ∧
    ∀ v : FrequencyList, 1 + 4 * v.frequencies.length ≤ 255 → Room s (3 + 4 * v.frequencies.length) →
      Appended (exec (.packFrequencyList v) s) s
        (0x62#8 :: BitVec.ofNat 8 (1 + 4 * v.frequencies.length) :: BitVec.ofNat 8 (0xFC + v.codingType.toNat) ::
          v.frequencies.flatMap fun f => bigEndian 4 f.toNat)
        (1 + 4 * v.frequencies.length)

/-- The kinds with length-prefixed parts inside (R157 to R160, R163): with PATCH_DEPTH room for the nesting and BUF room for
the bytes, each leaves its encoded descriptor. The extended event packs bits, and takes R28's premise on BACC (`Inv.bacc`). -/
def Obligations.PackAppendsTextKinds : Prop :=
  ∀ (s : State) (i : Instr), i.wellFormed = true → Room s (encode i).length →
    ((∃ v : ShortEvent, i = .packShortEvent v) ∨ (∃ b : List LangBlock, i = .packMlNetworkName b) ∨
        (∃ v : MlComponent, i = .packMlComponent v) ∨ (∃ v : DataBroadcast, i = .packDataBroadcast v)) ∧
      s.pstk.length + 2 ≤ 8 ∨
    (∃ v : ExtendedEvent, i = .packExtendedEvent v) ∧ s.pstk.length + 3 ≤ 8 ∧ s.bv.toNat < 2 ^ s.nb.toNat →
    Appended (exec i s) s (encode i) ((encode i).length - 2)

/-- The two kinds whose layout depends on a selector and flags (R155, R156, R165), with R28's premise on BACC
(`Inv.bacc`). -/
def Obligations.PackAppendsSelectedKinds : Prop :=
  ∀ (s : State) (i : Instr), i.wellFormed = true → Room s (encode i).length → s.pstk.length + 2 ≤ 8 →
    s.bv.toNat < 2 ^ s.nb.toNat →
    ((∃ v : Linkage, i = .packLinkage v) ∨ (∃ v : T2Delivery, i = .packExtensionT2 v)) →
    Appended (exec i s) s (encode i) ((encode i).length - 2)

/-- R96, R306: a pseudo-instruction is not atomic: it is ASM.PUT8 of its tag, ASM.RSV8, the commands of its body and ASM.PATCH,
up to the first that fails. For every kind, what is left where the tag, or the placeholder behind it, is the first to fail;
and for the two kinds of one body command, where that command or the last one is. A PACK.OPAQUE tag below 0x80 is covered too,
by the model's choice (log entry 8). -/
def Obligations.PackFailsWhereItsFirstCommandFails : Prop :=
  (∀ (i : Instr) (tag : Byte) (p : List Byte), packed i = some (tag, p) →
    (∃ body : List Instr,
      (∀ j ∈ body, j = .asmRsv8 ∨ j = .asmPatch ∨ (∃ v : Byte, j = .asmPut8 v) ∨ (∃ v : Half, j = .asmPut16 v) ∨
        (∃ v : Word, j = .asmPut32 v) ∨ (∃ b : List Byte, j = .asmPutn b) ∨ ∃ (w : Byte) (v : Word), j = .asmPutf w v) ∧
      ∀ s : State, exec i s = runAll (.asmPut8 tag :: .asmRsv8 :: (body ++ [.asmPatch])) s) ∧
    ∀ s : State,
      (s.nb ≠ 0#3 → exec i s = .next (s.badCommand 2)) ∧
      (s.nb = 0#3 → s.cap.toNat < s.wp.toNat + 1 →
        exec i s = .next (s.answered 3#3 (BitVec.ofNat 32 (s.wp.toNat + 1)) [])) ∧
      (Room s 1 → 8 ≤ s.pstk.length ∨ s.cap.toNat < s.wp.toNat + 2 →
        ∃ t : State, exec i s = .next t ∧ Stored s.buf t.buf s.wp.toNat [tag] ∧
          let left : State := { s with
            buf := t.buf
            wp := BitVec.ofNat 16 (s.wp.toNat + 1)
            encValid := false }
          t = if 8 ≤ s.pstk.length then left.badCommand 4
              else left.answered 3#3 (BitVec.ofNat 32 (s.wp.toNat + 2)) [])) ∧
  ∀ (s : State) (i : Instr) (tag : Byte) (raw : List Byte),
    (tag = 0x40#8 ∧ i = .packNetworkName raw) ∨ i = .packOpaque tag raw → s.pstk.length < 8 →
    (255 < raw.length → Room s (2 + raw.length) →
      ∃ t : State, exec i s = .next t ∧ Stored s.buf t.buf s.wp.toNat (tag :: 0x00#8 :: raw) ∧
        t = { s with
              buf := t.buf
              wp := BitVec.ofNat 16 (s.wp.toNat + 2 + raw.length)
              pstk := ⟨BitVec.ofNat 16 (s.wp.toNat + 1), .w8⟩ :: s.pstk
              encValid := false }.answered 1#3 (BitVec.ofNat 32 raw.length) []) ∧
    (Room s 2 → s.cap.toNat < s.wp.toNat + 2 + raw.length →
      ∃ t : State, exec i s = .next t ∧ Stored s.buf t.buf s.wp.toNat [tag, 0x00#8] ∧
        t = { s with
              buf := t.buf
              wp := BitVec.ofNat 16 (s.wp.toNat + 2)
              pstk := ⟨BitVec.ofNat 16 (s.wp.toNat + 1), .w8⟩ :: s.pstk
              encValid := false }.answered 3#3 (BitVec.ofNat 32 (s.wp.toNat + 2 + raw.length)) [])

/-! ### The wire patterns -/

/-- The bytes of each pattern (R75 to R77, R79 to R82, R252), run as an append, which is the model's choice (log
entry 6). -/
def Obligations.WirePatternsAppendTheirBytes : Prop :=
  ∀ s : State,
    (∀ tag length : Byte, AppendRule (.wireDescriptor tag length) [tag, length] s) ∧
    (∀ (f : BitVec 4) (c : BitVec 12),
      AppendRule (.wireLengthWord f c) (bigEndian 2 (f.toNat * 4096 + c.toNat)) s) ∧
    (∀ (tableId : Byte) (len : BitVec 12) (networkId : Half) (version : BitVec 5),
      AppendRule (.wireSectionHeader tableId len networkId version)
        (tableId :: (bigEndian 2 (0xF000 + len.toNat) ++ bigEndian 2 networkId.toNat ++
          [BitVec.ofNat 8 (0xC0 + 2 * version.toNat + 1), 0#8, 0#8])) s) ∧
    (∀ tsId onId : Half,
      AppendRule (.wireEntityHeader tsId onId) (bigEndian 2 tsId.toNat ++ bigEndian 2 onId.toNat) s) ∧
    (∀ crc : Word, AppendRule (.wireCrcTrailer crc) (bigEndian 4 crc.toNat) s) ∧
    (∀ (start : BitVec 1) (pid : BitVec 13),
      AppendRule (.wireTsHeader start pid)
        (0x47#8 :: (bigEndian 2 (start.toNat * 0x4000 + pid.toNat) ++ [0x10#8])) s) ∧
    AppendRule .wirePointerField [0x00#8] s

/-! ### The whole machine -/

/-- R277, R278: a command that ends in an error leaves the state before it, apart from STATUS, RESULT and the response. -/
def Obligations.ErrorsLeaveTheStateBefore : Prop :=
  (∀ (e : Err) (s : State), raiseErr e s = match e with
    | .malformedInput n => s.answered 1#3 (BitVec.ofNat 32 n) []
    | .unknownTag tag => s.answered 2#3 (BitVec.ofNat 32 tag.toNat) []
    | .bufferTooSmall n => s.answered 3#3 (BitVec.ofNat 32 n) []
    | .sectionTooLarge n => s.answered 4#3 (BitVec.ofNat 32 n) []
    | .tagMismatch b => s.answered 5#3 (BitVec.ofNat 32 b.toNat) []
    | .badCommand r => s.answered 6#3 (BitVec.ofNat 32 (reasonCode r)) []) ∧
  ∀ (i : Instr) (s t : State), i.format = .cmd → exec i s = .next t → t.status ≠ 0#3 →
    ∃ e : Err, t = raiseErr e s

/-- The error kinds and reasons each instruction may end with, in states that keep the invariant: a command those of its row
of R271, a pseudo-instruction those of the commands it is made of (R96), and a wire pattern those of an append, which is the
model's choice (log entry 6). -/
def Obligations.CommandsRaiseOnlyTheirErrors : Prop :=
  ∀ (i : Instr) (s t : State), Inv s → exec i s = .next t →
    t.status = 0#3 ∨ t.status ∈ (mayRaise i).1 ∨ t.status = 6#3 ∧ t.result.toNat ∈ (mayRaise i).2

/-- Which instruction touches what: a command what its row of R37 names, a pseudo-instruction what its commands do (R96), and
a wire pattern what an append does, which is the model's choice (log entry 6). -/
def Obligations.CommandsTouchOnlyTheirState : Prop :=
  ∀ (i : Instr) (s t : State), exec i s = .next t → Untouched (touch i) s t

/-- R29: ENC_VALID and ENC_LEN after a command. -/
def Obligations.EncValidFollowsTheCommands : Prop :=
  ∀ (i : Instr) (s t : State), i.format = .cmd → exec i s = .next t →
    (t.status ≠ 0#3 → t.encValid = s.encValid ∧ t.encLen = s.encLen) ∧
    (t.status = 0#3 → t.encValid = encAfter i s.encValid ∧
      ((∃ cap : Half, i = .secEnc cap) ∧ t.encLen = BitVec.ofNat 16 (secSize Config.entityDescLen s) ∨
        (∀ cap : Half, i ≠ .secEnc cap) ∧ t.encLen = s.encLen))

/-- R71: the response is the status byte, RESULT big-endian, and the bytes that a successful BUF.RD or OBUF.RD read. The
field that holds it is the model's own (log entry 5). -/
def Obligations.ResponseCarriesStatusAndResult : Prop :=
  ∀ (i : Instr) (s t : State), exec i s = .next t →
    ∃ data : List Byte,
      t.resp = BitVec.ofNat 8 t.status.toNat :: (bigEndian 4 t.result.toNat ++ data) ∧
      (data ≠ [] → t.status = 0#3 ∧ data.length = t.result.toNat ∧
        ∃ off n : Half, i = .bufRd off n ∨ i = .obufRd off n)

/-- R51: BUF is append-only between resets of the write pointer: every cell from the new WP up is unwritten, none at or above
CAP is ever written, the cells below the old WP keep their bytes, and ASM.PATCH leaves WP and writes the top field alone. -/
def Obligations.BufIsAppendOnly : Prop :=
  ∀ (i : Instr) (s t : State), Inv s → exec i s = .next t →
    (∀ k : Nat, t.wp.toNat ≤ k ∨ t.cap.toNat ≤ k → Memory.read t.buf k = none) ∧
    (i = .asmPatch → t.wp = s.wp) ∧
    ((∃ cap : Half, i = .asmReset cap ∨ i = .secEnc cap) ∧ t.status = 0#3 ∨
      s.wp.toNat ≤ t.wp.toNat ∧
      ∀ k : Nat, k < s.wp.toNat →
        (i = .asmPatch → ∀ e ∈ s.pstk.head?, k < e.off.toNat ∨ e.off.toNat + fsize e.kind ≤ k) →
        Memory.read t.buf k = Memory.read s.buf k)

/-- R36: the state after reset. -/
def Obligations.ResetStateIsEmpty : Prop :=
  State.reset.valid = false ∧ State.reset.tableId = 0#8 ∧ State.reset.networkId = 0#16 ∧
  State.reset.version = 0#5 ∧ State.reset.pid = 0#13 ∧ State.reset.descs = [] ∧ State.reset.ents = [] ∧
  (∀ k : Nat, Memory.read State.reset.buf k = none) ∧ State.reset.wp = 0#16 ∧ State.reset.cap = 0#16 ∧
  State.reset.pstk = [] ∧ State.reset.nb = 0#3 ∧ State.reset.bv = 0#7 ∧ State.reset.encValid = false ∧
  State.reset.encLen = 0#16 ∧ (∀ k : Nat, Memory.read State.reset.obuf k = none) ∧ State.reset.olen = 0#16 ∧
  State.reset.status = 0#3 ∧ State.reset.result = 0#32

/-- The constraints R8 puts on the parameters, for both values of ENTITY_DESC_LEN. -/
def Obligations.ParametersMeetTheirConstraints : Prop :=
  Config.maxSection ≤ Config.bufSize ∧ Config.maxSection - 3 ≤ 4095 ∧
  (Config.maxSection + 1 + (Config.payloadSize - 1)) / Config.payloadSize * Config.packetSize ≤ Config.obufSize ∧
  Config.bufSize ≤ 65535 ∧ 2 + Config.entityDescLen.toNat ≤ Config.patchDepth ∧ 3 ≤ Config.patchDepth

/-- The invariant holds after reset. -/
def Obligations.InvariantHoldsAtReset : Prop := Inv State.reset

/-- The invariant is kept by every step, whatever stands on the command port. -/
def Obligations.InvariantIsKeptByEveryStep : Prop := ∀ s t : State, Inv s → step s = .next t → Inv t

/-- From every state that keeps the invariant, a step answers a next state: no fault, no refusal. -/
def Obligations.StepAlwaysAnswers : Prop := ∀ s : State, Inv s → ∃ t : State, step s = .next t

/-- Every step keeps the canonical form of both memories, from every state. -/
def Obligations.MemoriesStayCanonical : Prop :=
  ∀ s t : State, Memory.wf s.buf → Memory.wf s.obuf → step s = .next t →
    Memory.wf t.buf ∧ Memory.wf t.obuf

/-- A step runs the oldest item of the command port, which is gone from the port. The port is the model's own (log entry 4);
in the reset clause, that the response is empty then is log entry 5's and that the rest of the port stays log entry 14's. -/
def Obligations.StepRunsTheOldestItem : Prop :=
  ∀ s : State,
    (s.port = [] → step s = .next s) ∧
    ∀ (item : PortItem) (rest : List PortItem), s.port = item :: rest →
      (∀ (f : List Byte) (i : Instr), item = .frame f → decodeFrame f = .ok i →
        step s = exec i { s with port := rest }) ∧
      (∀ i : Instr, item = .listing i → step s = exec i { s with port := rest }) ∧
      (item = .crcAppend → step s = execCrcAppend { s with port := rest }) ∧
      (item = .reset → step s = .next { State.reset with port := rest })

/-! ### Encodings -/

/-- What a frame is, and how the block answers what is not one (R70, R74). That a frame stands on the port, and leaves it in
the step, is the model's choice (log entry 4). -/
def Obligations.FramesAreToldApart : Prop :=
  ∀ (s : State) (rest : List PortItem),
    (s.port = .frame [] :: rest → step s = .next ({ s with port := rest }.badCommand 8)) ∧
    ∀ (op : Byte) (r : List Byte), s.port = .frame (op :: r) :: rest →
      if op ∉ opcodes then step s = .next ({ s with port := rest }.badCommand 1)
      else if frameLengthOk op r = false then step s = .next ({ s with port := rest }.badCommand 8)
      else ∃ i : Instr, i.format = .cmd ∧ encode i = op :: r ∧ step s = exec i { s with port := rest }

/-- Every well-formed instruction's words decode to it, with every operand at every value. -/
def Obligations.DecodeOfEncodeIsTheInstruction : Prop :=
  ∀ i : Instr, i.wellFormed = true → decode i.format (encode i) = .ok i

/-- R133 (a): the payload that packs a typed value passes its kind's check, as DESC.DEC sees it, and is read as that value. -/
def Obligations.PackedValuesPassTheirCheck : Prop :=
  ∀ (i : Instr) (tag : Byte) (p : List Byte) (s : State), i.wellFormed = true → packed i = some (tag, p) →
    exec (.descDec tag (encode i)) s = .next (s.answered 0#3 (BitVec.ofNat 32 p.length) []) ∧
    create tag p = .ok ⟨tag, p⟩ ∧ parseKind tag p = some i

/-- What is read as a frame or as a wire pattern has exactly the words of the instruction read: no bit is ignored. -/
def Obligations.NoBitOfAFrameOrPatternIsIgnored : Prop :=
  ∀ (f : Format) (bs : List Byte) (i : Instr), f ≠ .tlv → decode f bs = .ok i → i.format = f ∧ encode i = bs

/-- A word of each format, written out from the spec's encodings (R73, R150 to R152, R76, R77, R81). -/
def Obligations.SampleWordsDecode : Prop :=
  decode .cmd [0x30#8, 0x40#8, 0x00#8, 0x01#8, 0x00#8, 0x00#8, 0x10#8] =
    .ok (.secInit 0x40#8 0x0001#16 0x00#8 0x0010#16) ∧
  decode .cmd [0x33#8, 0x00#8, 0x02#8, 0x41#8, 0x00#8, 0x03#8, 0x00#8, 0x65#8, 0x01#8] =
    .ok (.entAddd 2#16 0x41#8 [0x00#8, 0x65#8, 0x01#8]) ∧
  decode .cmd [0x15#8, 0x0C#8, 0x00#8, 0x00#8, 0x00#8, 0x05#8] = .ok (.asmPutf 12#8 5#32) ∧
  decode .tlv [0x41#8, 0x06#8, 0x00#8, 0x65#8, 0x01#8, 0x00#8, 0x66#8, 0x02#8] =
    .ok (.packServiceList [⟨0x0065#16, 1#8⟩, ⟨0x0066#16, 2#8⟩]) ∧
  decode .wireLengthWord [0xF1#8, 0x2C#8] = .ok (.wireLengthWord 0xF#4 300#12) ∧
  decode .wireSectionHeader [0x40#8, 0xF0#8, 0x12#8, 0x00#8, 0x01#8, 0xC1#8, 0x00#8, 0x00#8] =
    .ok (.wireSectionHeader 0x40#8 18#12 0x0001#16 0#5) ∧
  decode .wireTsHeader [0x47#8, 0x5F#8, 0xFF#8, 0x10#8] = .ok (.wireTsHeader 1#1 0x1FFF#13)
end

