-- ==== Sys2Proof/Laws/Crc.lean ====
section
/-! SUPPORT. The CRC engine at the value R7 gives CRC_REFLECT: bytes enter and the register leaves as they are. -/

namespace Sys2Proof.Machine

@[simp] theorem crcIn_eq (b : Byte) : crcIn b = b := rfl

@[simp] theorem crcOut_eq (c : Word) : crcOut c = c ^^^ Config.crcXorOut := rfl

/-- A checksum starts from CRC_INIT and goes byte by byte (R230, R231). -/
theorem crc32_eq_foldl (m : List Byte) : crc32 m = m.foldl crcByte Config.crcInit ^^^ Config.crcXorOut := rfl

/-- The register after a message is the register after its first part, continued with the second. -/
theorem crcByte_foldl_append (m n : List Byte) (c : Word) :
    (m ++ n).foldl crcByte c = n.foldl crcByte (m.foldl crcByte c) := List.foldl_append

end Sys2Proof.Machine
end

