-- ==== Sys2Proof/Laws/Memory.lean ====
section
/-! SUPPORT. The laws of the memories: what a one-byte read sees after a write, and the canonical form that every
memory operation keeps. -/

namespace Sys2Proof.Machine

theorem mem_cellsFrom {a : Nat} {bs : List Byte} {c : Host.Cell} (h : c ∈ cellsFrom a bs) :
    a ≤ c.1 ∧ c.1 < a + bs.length := by
  induction bs generalizing a with
  | nil => simp [cellsFrom] at h
  | cons b bs ih =>
    simp only [cellsFrom, List.mem_cons] at h
    rcases h with rfl | h
    · simp
    · have := ih h
      simp only [List.length_cons]
      omega

@[simp] theorem length_cellsFrom (a : Nat) (bs : List Byte) : (cellsFrom a bs).length = bs.length := by
  induction bs generalizing a with
  | nil => rfl
  | cons b bs ih => simp [cellsFrom, ih]

/-- The bytes of cells, back. -/
@[simp] theorem map_snd_cellsFrom (a : Nat) (bs : List Byte) : (cellsFrom a bs).map Prod.snd = bs := by
  induction bs generalizing a with
  | nil => rfl
  | cons b bs ih => simp [cellsFrom, ih]

/-- The addresses of cells are consecutive. -/
theorem map_fst_cellsFrom (a : Nat) (bs : List Byte) :
    (cellsFrom a bs).map Prod.fst = List.range' a bs.length := by
  induction bs generalizing a with
  | nil => rfl
  | cons b bs ih => simp [cellsFrom, ih, List.range'_succ]

theorem cellsFrom_append (a : Nat) (xs ys : List Byte) :
    cellsFrom a (xs ++ ys) = cellsFrom a xs ++ cellsFrom (a + xs.length) ys := by
  induction xs generalizing a with
  | nil => simp [cellsFrom]
  | cons x xs ih => simp [cellsFrom, ih, Nat.add_assoc, Nat.add_comm 1]

/-- A read sees only the entries at its address. -/
theorem read_append (m n : Memory) (k : Nat) :
    Memory.read (m ++ n) k = (Memory.read m k).or (Memory.read n k) := by
  induction m with
  | nil => rfl
  | cons c m ih =>
    obtain ⟨a, b⟩ := c
    simp only [Memory.read, List.cons_append, List.lookup_cons] at *
    cases h : k == a <;> simp [ih]

theorem read_cons (a k : Nat) (b : Byte) (m : Memory) :
    Memory.read ((a, b) :: m) k = if k = a then some b else Memory.read m k := by
  by_cases h : k = a
  · subst h
    simp [Memory.read]
  · have hk : (k == a) = false := by simpa using h
    simp only [Memory.read, List.lookup_cons, hk, if_neg h]

theorem read_filter (m : Memory) (p : Nat → Bool) (k : Nat) :
    Memory.read (m.filter fun c => p c.1) k = if p k then Memory.read m k else none := by
  induction m with
  | nil => simp [Memory.read]
  | cons c m ih =>
    obtain ⟨a, b⟩ := c
    by_cases hk : k = a
    · subst hk
      cases hp : p k
      · simp [hp, ih]
      · simp [hp, read_cons]
    · cases hp : p a <;> simp [hp, read_cons, hk, ih]

theorem read_cellsFrom (a : Nat) (bs : List Byte) (k : Nat) :
    Memory.read (cellsFrom a bs) k = if a ≤ k then bs[k - a]? else none := by
  induction bs generalizing a with
  | nil => simp [cellsFrom, Memory.read]
  | cons b bs ih =>
    by_cases hk : k = a
    · subst hk
      simp [cellsFrom, Memory.read]
    · have h0 : Memory.read (cellsFrom a (b :: bs)) k = Memory.read (cellsFrom (a + 1) bs) k := by
        have hk' : (k == a) = false := by simpa using hk
        simp only [cellsFrom, Memory.read, List.lookup_cons, hk']
      rw [h0, ih]
      by_cases h : a + 1 ≤ k
      · have h2 : k - a = (k - (a + 1)) + 1 := by omega
        rw [if_pos h, if_pos (by omega), h2, List.getElem?_cons_succ]
      · rw [if_neg h, if_neg (by omega)]

/-- A read after a write. -/
theorem read_write (m : Memory) (a : Nat) (bs : List Byte) (k : Nat) :
    Memory.read (Memory.write m a bs) k =
      if a ≤ k ∧ k < a + bs.length then bs[k - a]? else Memory.read m k := by
  have h1 := read_filter m (fun x => decide (x < a)) k
  have h2 := read_filter m (fun x => decide (a + bs.length ≤ x)) k
  simp only [decide_eq_true_eq] at h1 h2
  rw [Memory.write, read_append, read_append, read_cellsFrom, h1, h2]
  rcases Nat.lt_or_ge k a with hlt | hge
  · rw [if_pos hlt, if_neg (by omega), if_neg (by omega), if_neg (by omega)]
    simp
  · rw [if_neg (by omega), if_pos hge]
    rcases Nat.lt_or_ge k (a + bs.length) with hlt' | hge'
    · rw [if_neg (by omega), if_pos ⟨hge, hlt'⟩]
      simp
    · rw [if_pos hge', if_neg (by omega), List.getElem?_eq_none (by omega)]
      simp

/-- A read of a written cell gives the byte written. -/
theorem read_write_same (m : Memory) (a : Nat) (bs : List Byte) (i : Nat) (h : i < bs.length) :
    Memory.read (Memory.write m a bs) (a + i) = bs[i]? := by
  rw [read_write, if_pos (by omega)]
  congr 1
  omega

/-- A write leaves every other cell alone. -/
theorem read_write_other (m : Memory) (a : Nat) (bs : List Byte) (k : Nat)
    (h : k < a ∨ a + bs.length ≤ k) : Memory.read (Memory.write m a bs) k = Memory.read m k := by
  rw [read_write, if_neg (by omega)]

theorem cellsFrom_wf (a : Nat) (bs : List Byte) : Memory.wf (cellsFrom a bs) := by
  induction bs generalizing a with
  | nil => exact List.Pairwise.nil
  | cons b bs ih =>
    refine List.Pairwise.cons ?_ (ih (a + 1))
    intro c hc
    have := mem_cellsFrom hc
    simp only
    omega

/-- A write keeps the canonical form. -/
theorem write_wf {m : Memory} (a : Nat) (bs : List Byte) (h : Memory.wf m) :
    Memory.wf (Memory.write m a bs) := by
  unfold Memory.write Memory.wf
  rw [List.pairwise_append, List.pairwise_append]
  refine ⟨⟨List.Pairwise.filter _ h, cellsFrom_wf a bs, ?_⟩, List.Pairwise.filter _ h, ?_⟩
  · intro c hc d hd
    have h1 := mem_cellsFrom hd
    simp only [List.mem_filter, decide_eq_true_eq] at hc
    omega
  · intro c hc d hd
    simp only [List.mem_append, List.mem_filter, decide_eq_true_eq] at hc hd
    rcases hc with ⟨_, hc⟩ | hc
    · omega
    · have h1 := mem_cellsFrom hc
      omega

theorem filter_lt_cellsFrom (a k : Nat) (bs : List Byte) (h : a + bs.length ≤ k) :
    (cellsFrom a bs).filter (fun c => c.1 < k) = cellsFrom a bs := by
  rw [List.filter_eq_self]
  intro c hc
  have := mem_cellsFrom hc
  simp only [decide_eq_true_eq]
  omega

theorem filter_lt_cellsFrom_none (a k : Nat) (bs : List Byte) (h : k ≤ a) :
    (cellsFrom a bs).filter (fun c => c.1 < k) = [] := by
  rw [List.filter_eq_nil_iff]
  intro c hc
  have := mem_cellsFrom hc
  simp only [decide_eq_true_eq]
  omega

theorem filter_ge_cellsFrom (a k : Nat) (bs : List Byte) (h : k ≤ a) :
    (cellsFrom a bs).filter (fun c => k ≤ c.1) = cellsFrom a bs := by
  rw [List.filter_eq_self]
  intro c hc
  have := mem_cellsFrom hc
  simp only [decide_eq_true_eq]
  omega

theorem filter_ge_cellsFrom_none (a k : Nat) (bs : List Byte) (h : a + bs.length ≤ k) :
    (cellsFrom a bs).filter (fun c => k ≤ c.1) = [] := by
  rw [List.filter_eq_nil_iff]
  intro c hc
  have := mem_cellsFrom hc
  simp only [decide_eq_true_eq]
  omega

theorem filter_below (m : Memory) (a k : Nat) (h : a ≤ k) :
    (m.filter (fun c => c.1 < a)).filter (fun c => c.1 < k) = m.filter (fun c => c.1 < a) := by
  rw [List.filter_eq_self]
  intro c hc
  simp only [List.mem_filter, decide_eq_true_eq] at hc ⊢
  omega

theorem filter_below_above (m : Memory) (a k : Nat) (h : a ≤ k) :
    (m.filter (fun c => c.1 < a)).filter (fun c => k ≤ c.1) = [] := by
  rw [List.filter_eq_nil_iff]
  intro c hc
  simp only [List.mem_filter, decide_eq_true_eq] at hc ⊢
  omega

theorem filter_above_below (m : Memory) (a k : Nat) (h : k ≤ a) :
    (m.filter (fun c => a ≤ c.1)).filter (fun c => c.1 < k) = [] := by
  rw [List.filter_eq_nil_iff]
  intro c hc
  simp only [List.mem_filter, decide_eq_true_eq] at hc ⊢
  omega

theorem filter_above (m : Memory) (a k : Nat) (h : a ≤ k) :
    (m.filter (fun c => a ≤ c.1)).filter (fun c => k ≤ c.1) = m.filter (fun c => k ≤ c.1) := by
  rw [List.filter_filter]
  apply List.filter_congr
  intro c _
  simp only [← Bool.decide_and, decide_eq_decide]
  omega

/-- A write that overwrites part of what the write before it stored is one write of the changed bytes. -/
theorem write_write_inside (m : Memory) (a : Nat) (xs ys zs ws : List Byte) (h : ws.length = ys.length) :
    Memory.write (Memory.write m a (xs ++ ys ++ zs)) (a + xs.length) ws =
      Memory.write m a (xs ++ ws ++ zs) := by
  have e1 := filter_below m a (a + xs.length) (by omega)
  have e2 := filter_below_above m a (a + xs.length + ys.length) (by omega)
  have e3 := filter_above_below m (a + (xs.length + ys.length + zs.length)) (a + xs.length) (by omega)
  have e5 := filter_lt_cellsFrom a (a + xs.length) xs (by omega)
  have e6 := filter_lt_cellsFrom_none (a + xs.length) (a + xs.length) ys (by omega)
  have e7 := filter_lt_cellsFrom_none (a + (xs.length + ys.length)) (a + xs.length) zs (by omega)
  have e8 := filter_ge_cellsFrom_none a (a + xs.length + ys.length) xs (by omega)
  have e9 := filter_ge_cellsFrom_none (a + xs.length) (a + xs.length + ys.length) ys (by omega)
  have e10 := filter_ge_cellsFrom (a + (xs.length + ys.length)) (a + xs.length + ys.length) zs (by omega)
  have e11 : (m.filter (fun c => a + (xs.length + ys.length + zs.length) ≤ c.1)).filter
      (fun c => a + xs.length + ys.length ≤ c.1) =
      m.filter (fun c => a + (xs.length + ys.length + zs.length) ≤ c.1) := by
    rw [List.filter_eq_self]
    intro c hc
    simp only [List.mem_filter, decide_eq_true_eq] at hc ⊢
    omega
  simp only [Memory.write, cellsFrom_append, List.filter_append, List.length_append, h, e1, e2, e3, e5, e6,
    e7, e8, e9, e10, e11]
  simp

/-- Two writes one after the other are one write. -/
theorem write_write_next (m : Memory) (a : Nat) (xs ys : List Byte) :
    Memory.write (Memory.write m a xs) (a + xs.length) ys = Memory.write m a (xs ++ ys) := by
  simp only [Memory.write, cellsFrom_append, List.filter_append, List.length_append]
  rw [filter_below m a _ (by omega), filter_below_above m a _ (by omega),
    filter_above_below m _ _ (by omega), filter_above m _ _ (by omega),
    filter_lt_cellsFrom a (a + xs.length) xs (by omega),
    filter_ge_cellsFrom_none a _ xs (by omega)]
  simp [Nat.add_assoc]

/-- Bytes read where cells stand one after another. -/
theorem takeRun_cellsFrom (a : Nat) (bs : List Byte) (m : Memory) :
    takeRun bs.length a (cellsFrom a bs ++ m) = some bs := by
  induction bs generalizing a with
  | nil => rfl
  | cons b bs ih => simp [cellsFrom, takeRun, ih]

/-- Bytes just written read back. -/
theorem readBytes_write (m : Memory) (a : Nat) (bs : List Byte) :
    Memory.readBytes (Memory.write m a bs) a bs.length = some bs := by
  have hd : ∀ (l : Memory), (∀ c ∈ l, c.1 < a) → ∀ r : Memory,
      (l ++ r).dropWhile (fun c => decide (c.1 < a)) = r.dropWhile (fun c => decide (c.1 < a)) := by
    intro l hl r
    induction l with
    | nil => rfl
    | cons c l ih =>
      have hc : c.1 < a := hl c (by simp)
      rw [List.cons_append, List.dropWhile_cons_of_pos (by simpa using hc)]
      exact ih (fun d hd => hl d (by simp [hd]))
  have hn : ∀ r : Memory, (∀ c ∈ r, a ≤ c.1) → r.dropWhile (fun c => decide (c.1 < a)) = r := by
    intro r hr
    cases r with
    | nil => rfl
    | cons c r =>
      have hc : a ≤ c.1 := hr c (by simp)
      exact List.dropWhile_cons_of_neg (by simpa using hc)
  unfold Memory.readBytes Memory.write
  rw [List.append_assoc, hd _ (by simp), hn, takeRun_cellsFrom]
  intro c hc
  simp only [List.mem_append, List.mem_filter, decide_eq_true_eq] at hc
  rcases hc with hc | ⟨_, hc⟩
  · exact (mem_cellsFrom hc).1
  · omega

/-- A memory whose addresses are 0, 1, ..., n − 1 is its bytes from address 0. -/
theorem eq_cellsFrom_of_range {m : Memory} {n : Nat} (h : m.map Prod.fst = List.range n) :
    m = cellsFrom 0 (m.map Prod.snd) := by
  have key : ∀ (m : Memory) (a : Nat), m.map Prod.fst = List.range' a m.length →
      m = cellsFrom a (m.map Prod.snd) := by
    intro m
    induction m with
    | nil => intro a _; rfl
    | cons c m ih =>
      intro a hm
      simp only [List.map_cons, List.length_cons, List.range'_succ, List.cons.injEq] at hm
      obtain ⟨h1, h2⟩ := hm
      simp only [List.map_cons, cellsFrom]
      rw [← ih (a + 1) h2, ← h1]
  have hl : m.length = n := by simpa using congrArg List.length h
  apply key m 0
  rw [hl, h, List.range_eq_range']

end Sys2Proof.Machine
end

