-- ==== Sys2Proof/Laws/State.lean ====
section
/-! SUPPORT. One lemma per field per update of the state: `complete`, `raiseErr`, `asmClear` and `answered`. -/

namespace Sys2Proof.Machine

@[simp] theorem complete_valid (v : Nat) (data : List Byte) (s : State) : (complete v data s).valid = s.valid := rfl
@[simp] theorem complete_tableId (v : Nat) (data : List Byte) (s : State) : (complete v data s).tableId = s.tableId := rfl
@[simp] theorem complete_networkId (v : Nat) (data : List Byte) (s : State) : (complete v data s).networkId = s.networkId := rfl
@[simp] theorem complete_version (v : Nat) (data : List Byte) (s : State) : (complete v data s).version = s.version := rfl
@[simp] theorem complete_pid (v : Nat) (data : List Byte) (s : State) : (complete v data s).pid = s.pid := rfl
@[simp] theorem complete_descs (v : Nat) (data : List Byte) (s : State) : (complete v data s).descs = s.descs := rfl
@[simp] theorem complete_ents (v : Nat) (data : List Byte) (s : State) : (complete v data s).ents = s.ents := rfl
@[simp] theorem complete_buf (v : Nat) (data : List Byte) (s : State) : (complete v data s).buf = s.buf := rfl
@[simp] theorem complete_wp (v : Nat) (data : List Byte) (s : State) : (complete v data s).wp = s.wp := rfl
@[simp] theorem complete_cap (v : Nat) (data : List Byte) (s : State) : (complete v data s).cap = s.cap := rfl
@[simp] theorem complete_pstk (v : Nat) (data : List Byte) (s : State) : (complete v data s).pstk = s.pstk := rfl
@[simp] theorem complete_nb (v : Nat) (data : List Byte) (s : State) : (complete v data s).nb = s.nb := rfl
@[simp] theorem complete_bv (v : Nat) (data : List Byte) (s : State) : (complete v data s).bv = s.bv := rfl
@[simp] theorem complete_encValid (v : Nat) (data : List Byte) (s : State) : (complete v data s).encValid = s.encValid := rfl
@[simp] theorem complete_encLen (v : Nat) (data : List Byte) (s : State) : (complete v data s).encLen = s.encLen := rfl
@[simp] theorem complete_obuf (v : Nat) (data : List Byte) (s : State) : (complete v data s).obuf = s.obuf := rfl
@[simp] theorem complete_olen (v : Nat) (data : List Byte) (s : State) : (complete v data s).olen = s.olen := rfl
@[simp] theorem complete_status (v : Nat) (data : List Byte) (s : State) : (complete v data s).status = 0#3 := rfl
@[simp] theorem complete_result (v : Nat) (data : List Byte) (s : State) : (complete v data s).result = toResult v := rfl
@[simp] theorem complete_resp (v : Nat) (data : List Byte) (s : State) : (complete v data s).resp = response 0#3 (toResult v) data := rfl
@[simp] theorem complete_port (v : Nat) (data : List Byte) (s : State) : (complete v data s).port = s.port := rfl

@[simp] theorem raiseErr_valid (e : Err) (s : State) : (raiseErr e s).valid = s.valid := rfl
@[simp] theorem raiseErr_tableId (e : Err) (s : State) : (raiseErr e s).tableId = s.tableId := rfl
@[simp] theorem raiseErr_networkId (e : Err) (s : State) : (raiseErr e s).networkId = s.networkId := rfl
@[simp] theorem raiseErr_version (e : Err) (s : State) : (raiseErr e s).version = s.version := rfl
@[simp] theorem raiseErr_pid (e : Err) (s : State) : (raiseErr e s).pid = s.pid := rfl
@[simp] theorem raiseErr_descs (e : Err) (s : State) : (raiseErr e s).descs = s.descs := rfl
@[simp] theorem raiseErr_ents (e : Err) (s : State) : (raiseErr e s).ents = s.ents := rfl
@[simp] theorem raiseErr_buf (e : Err) (s : State) : (raiseErr e s).buf = s.buf := rfl
@[simp] theorem raiseErr_wp (e : Err) (s : State) : (raiseErr e s).wp = s.wp := rfl
@[simp] theorem raiseErr_cap (e : Err) (s : State) : (raiseErr e s).cap = s.cap := rfl
@[simp] theorem raiseErr_pstk (e : Err) (s : State) : (raiseErr e s).pstk = s.pstk := rfl
@[simp] theorem raiseErr_nb (e : Err) (s : State) : (raiseErr e s).nb = s.nb := rfl
@[simp] theorem raiseErr_bv (e : Err) (s : State) : (raiseErr e s).bv = s.bv := rfl
@[simp] theorem raiseErr_encValid (e : Err) (s : State) : (raiseErr e s).encValid = s.encValid := rfl
@[simp] theorem raiseErr_encLen (e : Err) (s : State) : (raiseErr e s).encLen = s.encLen := rfl
@[simp] theorem raiseErr_obuf (e : Err) (s : State) : (raiseErr e s).obuf = s.obuf := rfl
@[simp] theorem raiseErr_olen (e : Err) (s : State) : (raiseErr e s).olen = s.olen := rfl
@[simp] theorem raiseErr_status (e : Err) (s : State) : (raiseErr e s).status = statusCode e := rfl
@[simp] theorem raiseErr_result (e : Err) (s : State) : (raiseErr e s).result = BitVec.ofNat 32 (errInfo e) := rfl
@[simp] theorem raiseErr_resp (e : Err) (s : State) : (raiseErr e s).resp = response (statusCode e) (BitVec.ofNat 32 (errInfo e)) [] := rfl
@[simp] theorem raiseErr_port (e : Err) (s : State) : (raiseErr e s).port = s.port := rfl

@[simp] theorem asmClear_valid (cap : Half) (s : State) : (asmClear cap s).valid = s.valid := rfl
@[simp] theorem asmClear_tableId (cap : Half) (s : State) : (asmClear cap s).tableId = s.tableId := rfl
@[simp] theorem asmClear_networkId (cap : Half) (s : State) : (asmClear cap s).networkId = s.networkId := rfl
@[simp] theorem asmClear_version (cap : Half) (s : State) : (asmClear cap s).version = s.version := rfl
@[simp] theorem asmClear_pid (cap : Half) (s : State) : (asmClear cap s).pid = s.pid := rfl
@[simp] theorem asmClear_descs (cap : Half) (s : State) : (asmClear cap s).descs = s.descs := rfl
@[simp] theorem asmClear_ents (cap : Half) (s : State) : (asmClear cap s).ents = s.ents := rfl
@[simp] theorem asmClear_buf (cap : Half) (s : State) : (asmClear cap s).buf = [] := rfl
@[simp] theorem asmClear_wp (cap : Half) (s : State) : (asmClear cap s).wp = 0#16 := rfl
@[simp] theorem asmClear_cap (cap : Half) (s : State) : (asmClear cap s).cap = cap := rfl
@[simp] theorem asmClear_pstk (cap : Half) (s : State) : (asmClear cap s).pstk = [] := rfl
@[simp] theorem asmClear_nb (cap : Half) (s : State) : (asmClear cap s).nb = 0#3 := rfl
@[simp] theorem asmClear_bv (cap : Half) (s : State) : (asmClear cap s).bv = 0#7 := rfl
@[simp] theorem asmClear_encValid (cap : Half) (s : State) : (asmClear cap s).encValid = false := rfl
@[simp] theorem asmClear_encLen (cap : Half) (s : State) : (asmClear cap s).encLen = s.encLen := rfl
@[simp] theorem asmClear_obuf (cap : Half) (s : State) : (asmClear cap s).obuf = s.obuf := rfl
@[simp] theorem asmClear_olen (cap : Half) (s : State) : (asmClear cap s).olen = s.olen := rfl
@[simp] theorem asmClear_status (cap : Half) (s : State) : (asmClear cap s).status = s.status := rfl
@[simp] theorem asmClear_result (cap : Half) (s : State) : (asmClear cap s).result = s.result := rfl
@[simp] theorem asmClear_resp (cap : Half) (s : State) : (asmClear cap s).resp = s.resp := rfl
@[simp] theorem asmClear_port (cap : Half) (s : State) : (asmClear cap s).port = s.port := rfl

@[simp] theorem answered_valid (c : BitVec 3) (v : Word) (data : List Byte) (s : State) : (s.answered c v data).valid = s.valid := rfl
@[simp] theorem answered_tableId (c : BitVec 3) (v : Word) (data : List Byte) (s : State) : (s.answered c v data).tableId = s.tableId := rfl
@[simp] theorem answered_networkId (c : BitVec 3) (v : Word) (data : List Byte) (s : State) : (s.answered c v data).networkId = s.networkId := rfl
@[simp] theorem answered_version (c : BitVec 3) (v : Word) (data : List Byte) (s : State) : (s.answered c v data).version = s.version := rfl
@[simp] theorem answered_pid (c : BitVec 3) (v : Word) (data : List Byte) (s : State) : (s.answered c v data).pid = s.pid := rfl
@[simp] theorem answered_descs (c : BitVec 3) (v : Word) (data : List Byte) (s : State) : (s.answered c v data).descs = s.descs := rfl
@[simp] theorem answered_ents (c : BitVec 3) (v : Word) (data : List Byte) (s : State) : (s.answered c v data).ents = s.ents := rfl
@[simp] theorem answered_buf (c : BitVec 3) (v : Word) (data : List Byte) (s : State) : (s.answered c v data).buf = s.buf := rfl
@[simp] theorem answered_wp (c : BitVec 3) (v : Word) (data : List Byte) (s : State) : (s.answered c v data).wp = s.wp := rfl
@[simp] theorem answered_cap (c : BitVec 3) (v : Word) (data : List Byte) (s : State) : (s.answered c v data).cap = s.cap := rfl
@[simp] theorem answered_pstk (c : BitVec 3) (v : Word) (data : List Byte) (s : State) : (s.answered c v data).pstk = s.pstk := rfl
@[simp] theorem answered_nb (c : BitVec 3) (v : Word) (data : List Byte) (s : State) : (s.answered c v data).nb = s.nb := rfl
@[simp] theorem answered_bv (c : BitVec 3) (v : Word) (data : List Byte) (s : State) : (s.answered c v data).bv = s.bv := rfl
@[simp] theorem answered_encValid (c : BitVec 3) (v : Word) (data : List Byte) (s : State) : (s.answered c v data).encValid = s.encValid := rfl
@[simp] theorem answered_encLen (c : BitVec 3) (v : Word) (data : List Byte) (s : State) : (s.answered c v data).encLen = s.encLen := rfl
@[simp] theorem answered_obuf (c : BitVec 3) (v : Word) (data : List Byte) (s : State) : (s.answered c v data).obuf = s.obuf := rfl
@[simp] theorem answered_olen (c : BitVec 3) (v : Word) (data : List Byte) (s : State) : (s.answered c v data).olen = s.olen := rfl
@[simp] theorem answered_status (c : BitVec 3) (v : Word) (data : List Byte) (s : State) : (s.answered c v data).status = c := rfl
@[simp] theorem answered_result (c : BitVec 3) (v : Word) (data : List Byte) (s : State) : (s.answered c v data).result = v := rfl
@[simp] theorem answered_resp (c : BitVec 3) (v : Word) (data : List Byte) (s : State) : (s.answered c v data).resp = c.setWidth 8 :: (be32 v ++ data) := rfl
@[simp] theorem answered_port (c : BitVec 3) (v : Word) (data : List Byte) (s : State) : (s.answered c v data).port = s.port := rfl

/-- `complete` is the answer OK. -/
theorem complete_eq_answered (v : Nat) (data : List Byte) (s : State) :
    complete v data s = s.answered 0#3 (toResult v) data := rfl

/-- `raiseErr` is the answer with the error's code and information (R278). -/
theorem raiseErr_eq_answered (e : Err) (s : State) :
    raiseErr e s = s.answered (statusCode e) (BitVec.ofNat 32 (errInfo e)) [] := rfl

/-- RESULT holds every number below 2^32 as it is. -/
theorem toResult_of_lt {v : Nat} (h : v < 2 ^ 32) : toResult v = BitVec.ofNat 32 v := if_pos h

/-- No status code of an error is 0, so a command that ends with STATUS 0 has succeeded (R270). -/
theorem statusCode_ne_zero (e : Err) : statusCode e ≠ 0#3 := by cases e <;> simp [statusCode]

/-- Status code 7 is never produced (R270). -/
theorem statusCode_ne_seven (e : Err) : statusCode e ≠ 7#3 := by cases e <;> simp [statusCode]

end Sys2Proof.Machine
end

