-- ==== Sys2Proof/Laws/Ops.lean ====
section
/-! SUPPORT. What each shared operation can do, said once: when it succeeds and with which state, and which errors it
raises. Later proofs cite these and do not unfold the operations. -/

namespace Sys2Proof.Machine

/-! ### Checks and the end of a command -/

theorem check_pos {c : Prop} [Decidable c] (e : Err) (h : c) : check c e = .ok () := if_pos h

theorem check_neg {c : Prop} [Decidable c] (e : Err) (h : ¬c) : check c e = .error (.err e) := if_neg h

/-- A check in front of the rest of a command. -/
theorem check_bind {α : Type} {c : Prop} [Decidable c] (e : Err) (f : Unit → Except Stop α) :
    (check c e >>= f) = if c then f () else .error (.err e) := by
  unfold check
  split <;> rfl

theorem inRange_bind {α : Type} {c : Prop} [Decidable c] (f : Unit → Except Stop α) :
    (inRange c >>= f) = if c then f () else .error (.err (.badCommand .operandRange)) := check_bind _ _

/-- What a finished command leaves: the answer OK on the state its work left, or the error on the state before. -/
theorem finish_next_iff (s t : State) (r : Except Stop Done) :
    finish s r = .next t ↔
      (∃ d, r = .ok d ∧ t = complete d.value d.data d.state) ∨ (∃ e, r = .error (.err e) ∧ t = raiseErr e s) := by
  rcases r with (e | f) | d <;> simp [finish, eq_comm]

/-- A command faults only where its work does. -/
theorem finish_fault_iff (s : State) (f : Fault) (r : Except Stop Done) :
    finish s r = .fault f ↔ r = .error (.fault f) := by
  rcases r with (e | f') | d <;> simp [finish]

/-- No command refuses. -/
theorem finish_not_refused (s : State) (r : Except Stop Done) (x : Refusal) : finish s r ≠ .refused x := by
  rcases r with (e | f) | d <;> simp [finish]

/-! ### BUF and OBUF -/

theorem bufWrite_ok_iff (a : Nat) (bs : List Byte) (s t : State) :
    bufWrite a bs s = .ok t ↔
      a + bs.length ≤ Config.bufSize ∧ t = { s with buf := Memory.write s.buf a bs } := by
  unfold bufWrite
  split <;> simp_all [eq_comm]

theorem bufWrite_err (a : Nat) (bs : List Byte) (s : State) (e : Err) : bufWrite a bs s ≠ .error (.err e) := by
  unfold bufWrite
  split <;> simp

theorem bufRead_ok_iff (a n : Nat) (s : State) (bs : List Byte) :
    bufRead a n s = .ok bs ↔ Memory.readBytes s.buf a n = some bs := by
  unfold bufRead
  split <;> simp_all

theorem bufRead_err (a n : Nat) (s : State) (e : Err) : bufRead a n s ≠ .error (.err e) := by
  unfold bufRead
  split <;> simp

theorem bufReadByte_ok_iff (a : Nat) (s : State) (b : Byte) :
    bufReadByte a s = .ok b ↔ Memory.read s.buf a = some b := by
  unfold bufReadByte
  split <;> simp_all

theorem obufRead_ok_iff (a n : Nat) (s : State) (bs : List Byte) :
    obufRead a n s = .ok bs ↔ Memory.readBytes s.obuf a n = some bs := by
  unfold obufRead
  split <;> simp_all

theorem obufFill_ok_iff (bs : List Byte) (s t : State) :
    obufFill bs s = .ok t ↔
      bs.length ≤ Config.obufSize ∧ t = { s with obuf := cellsFrom 0 bs, olen := BitVec.ofNat 16 bs.length } := by
  unfold obufFill
  split <;> simp_all [eq_comm]

/-! ### Append -/

/-- The state that `append(bs)` leaves (R100). -/
def appended (bs : List Byte) (s : State) : State :=
  { s with
    buf := Memory.write s.buf s.wp.toNat bs
    wp := BitVec.ofNat 16 (s.wp.toNat + bs.length)
    encValid := false }

theorem appendBytes_eq (bs : List Byte) (s : State) :
    appendBytes bs s =
      if s.nb = 0#3 then
        if s.wp.toNat + bs.length ≤ s.cap.toNat then
          if s.wp.toNat + bs.length ≤ Config.bufSize then .ok (appended bs s) else .error (.fault .noSuchCell)
        else .error (.err (.bufferTooSmall (s.wp.toNat + bs.length)))
      else .error (.err (.badCommand .pendingBits)) := by
  unfold appendBytes bufWrite
  rw [check_bind]
  split
  · rw [check_bind]
    split
    · split <;> rfl
    · rfl
  · rfl

/-- With room, `append` succeeds (R100). -/
theorem appendBytes_of_room {bs : List Byte} {s : State} (h : Room s bs.length) :
    appendBytes bs s = .ok (appended bs s) := by
  rw [appendBytes_eq, if_pos h.1, if_pos h.2.1, if_pos (Nat.le_trans h.2.1 h.2.2)]

/-- All that a successful `append` can do (R100). -/
theorem appendBytes_ok {bs : List Byte} {s t : State} (h : appendBytes bs s = .ok t) :
    s.nb = 0#3 ∧ s.wp.toNat + bs.length ≤ s.cap.toNat ∧ s.wp.toNat + bs.length ≤ Config.bufSize ∧
      t = appended bs s := by
  rw [appendBytes_eq] at h
  repeat' split at h
  all_goals simp_all

theorem appended_wp_toNat {bs : List Byte} {s : State} (h : s.wp.toNat + bs.length ≤ s.cap.toNat) :
    (appended bs s).wp.toNat = s.wp.toNat + bs.length := by
  have := s.cap.isLt
  simp only [appended, BitVec.toNat_ofNat]
  omega

/-- An append after an append is one append (R100, R107). -/
theorem appended_appended {xs ys : List Byte} {s : State} (h : s.wp.toNat + xs.length ≤ s.cap.toNat) :
    appended ys (appended xs s) = appended (xs ++ ys) s := by
  have hw := appended_wp_toNat h
  have h1 : appended ys (appended xs s) =
      { s with
        buf := Memory.write (Memory.write s.buf s.wp.toNat xs) (appended xs s).wp.toNat ys
        wp := BitVec.ofNat 16 ((appended xs s).wp.toNat + ys.length)
        encValid := false } := rfl
  rw [h1, hw, write_write_next, Nat.add_assoc, ← List.length_append]
  rfl

/-- The appended bytes are stored at the old write pointer and nowhere else. -/
theorem appended_stored (bs : List Byte) (s : State) : Stored s.buf (appended bs s).buf s.wp.toNat bs :=
  ⟨fun i h => read_write_same _ _ _ i h, fun k h => read_write_other _ _ _ k h⟩

theorem appendDone_eq (bs : List Byte) (s : State) :
    appendDone bs s =
      if s.nb = 0#3 then
        if s.wp.toNat + bs.length ≤ s.cap.toNat then
          if s.wp.toNat + bs.length ≤ Config.bufSize then
            .ok { state := appended bs s, value := (appended bs s).wp.toNat }
          else .error (.fault .noSuchCell)
        else .error (.err (.bufferTooSmall (s.wp.toNat + bs.length)))
      else .error (.err (.badCommand .pendingBits)) := by
  unfold appendDone
  rw [appendBytes_eq]
  repeat' split
  all_goals rfl

/-! ### Reserve -/

/-- The state that a reservation leaves (R108, R109). -/
def reserved (kind : FieldKind) (bs : List Byte) (s : State) : State :=
  { appended bs s with pstk := ⟨s.wp, kind⟩ :: s.pstk }

theorem reserve_eq (kind : FieldKind) (bs : List Byte) (s : State) :
    reserve kind bs s =
      if s.nb = 0#3 then
        if s.pstk.length < Config.patchDepth then
          if s.wp.toNat + bs.length ≤ s.cap.toNat then
            if s.wp.toNat + bs.length ≤ Config.bufSize then .ok (reserved kind bs s)
            else .error (.fault .noSuchCell)
          else .error (.err (.bufferTooSmall (s.wp.toNat + bs.length)))
        else .error (.err (.badCommand .patchFull))
      else .error (.err (.badCommand .pendingBits)) := by
  unfold reserve
  rw [check_bind]
  split
  · rename_i h1
    rw [check_bind]
    unfold pdepth
    split
    · rw [check_bind]
      split
      · rename_i h3
        rw [appendBytes_eq]
        have h1' : ({ s with pstk := ⟨s.wp, kind⟩ :: s.pstk } : State).nb = 0#3 := h1
        have h3' : ({ s with pstk := ⟨s.wp, kind⟩ :: s.pstk } : State).wp.toNat + bs.length ≤
            ({ s with pstk := ⟨s.wp, kind⟩ :: s.pstk } : State).cap.toNat := h3
        rw [if_pos h1', if_pos h3']
        split <;> rfl
      · rfl
    · rfl
  · rfl

/-- All that a successful reservation can do. -/
theorem reserve_ok {kind : FieldKind} {bs : List Byte} {s t : State} (h : reserve kind bs s = .ok t) :
    s.nb = 0#3 ∧ s.pstk.length < Config.patchDepth ∧ s.wp.toNat + bs.length ≤ s.cap.toNat ∧
      s.wp.toNat + bs.length ≤ Config.bufSize ∧ t = reserved kind bs s := by
  rw [reserve_eq] at h
  repeat' split at h
  all_goals simp_all

/-! ### Patch -/

/-- All that a successful ASM.PATCH can do (R110): it pops the top entry and stores the count in its field. -/
theorem patchTop_ok {s : State} {r : State × Nat} (h : patchTop s = .ok r) :
    s.nb = 0#3 ∧ ∃ e rest, s.pstk = e :: rest ∧ r.2 = patchCount e s ∧
      ((e.kind = .w8 ∧ r.2 ≤ 255 ∧
          r.1 = { s with
            buf := Memory.write s.buf e.off.toNat [BitVec.ofNat 8 r.2]
            pstk := rest
            encValid := false }) ∨
        (e.kind = .w12 ∧ r.2 ≤ 4095 ∧ ∃ b0, Memory.read s.buf e.off.toNat = some b0 ∧
          r.1 = { s with
            buf := Memory.write s.buf e.off.toNat (lengthWordBytes (b0.extractLsb' 4 4) (BitVec.ofNat 12 r.2))
            pstk := rest
            encValid := false })) := by
  unfold patchTop at h
  rw [check_bind] at h
  split at h
  · rename_i hn
    refine ⟨hn, ?_⟩
    split at h
    · simp at h
    · rename_i e rest hp
      refine ⟨e, rest, hp, ?_⟩
      split at h
      · rename_i hk
        rw [check_bind] at h
        split at h
        · rename_i hle
          cases hw : bufWrite e.off.toNat [BitVec.ofNat 8 (patchCount e s)] s with
          | error x => rw [hw] at h; cases h
          | ok t =>
            rw [hw] at h
            cases h
            obtain ⟨_, rfl⟩ := (bufWrite_ok_iff _ _ _ _).1 hw
            exact ⟨rfl, Or.inl ⟨hk, hle, rfl⟩⟩
        · simp at h
      · rename_i hk
        rw [check_bind] at h
        split at h
        · rename_i hle
          cases hr : bufReadByte e.off.toNat s with
          | error x => rw [hr] at h; cases h
          | ok b0 =>
            rw [hr] at h
            replace h : (bufWrite e.off.toNat
                (lengthWordBytes (b0.extractLsb' 4 4) (BitVec.ofNat 12 (patchCount e s))) s >>= fun t =>
                  Except.ok (({ t with pstk := rest, encValid := false } : State), patchCount e s)) =
                (Except.ok r : Except Stop (State × Nat)) := h
            cases hw : bufWrite e.off.toNat
                (lengthWordBytes (b0.extractLsb' 4 4) (BitVec.ofNat 12 (patchCount e s))) s with
            | error x => rw [hw] at h; cases h
            | ok t =>
              rw [hw] at h
              cases h
              obtain ⟨_, rfl⟩ := (bufWrite_ok_iff _ _ _ _).1 hw
              exact ⟨rfl, Or.inr ⟨hk, hle, b0, (bufReadByte_ok_iff _ _ _).1 hr, rfl⟩⟩
        · simp at h
  · simp at h

/-! ### The bit packer -/

/-- The state that ASM.PUTF leaves (R106). -/
def packedField (w : Nat) (v : Word) (s : State) : State :=
  { s with
    buf := Memory.write s.buf s.wp.toNat
      (beBytes ((s.nb.toNat + w) / 8) (packAcc w v s / 2 ^ ((s.nb.toNat + w) % 8)))
    wp := BitVec.ofNat 16 (s.wp.toNat + (s.nb.toNat + w) / 8)
    nb := BitVec.ofNat 3 ((s.nb.toNat + w) % 8)
    bv := BitVec.ofNat 7 (packAcc w v s % 2 ^ ((s.nb.toNat + w) % 8))
    encValid := false }

@[simp] theorem length_beBytes (k v : Nat) : (beBytes k v).length = k := by
  induction k with
  | zero => rfl
  | succ k ih => simp [beBytes, ih]

/-- All that ASM.PUTF can do after its operand checks (R106). -/
theorem putField_eq (w : Nat) (v : Word) (s : State) :
    putField w v s =
      if s.wp.toNat + (s.nb.toNat + w) / 8 ≤ s.cap.toNat then
        if s.wp.toNat + (s.nb.toNat + w) / 8 ≤ Config.bufSize then .ok (packedField w v s)
        else .error (.fault .noSuchCell)
      else .error (.err (.bufferTooSmall (s.wp.toNat + (s.nb.toNat + w) / 8))) := by
  unfold putField
  simp only
  rw [check_bind]
  split
  · unfold bufWrite
    rw [length_beBytes]
    split <;> rfl
  · rfl

end Sys2Proof.Machine
end

