-- ==== Sys2Proof/Laws/Pack.lean ====
section
/-! SUPPORT. Running the lines of a pseudo-instruction: a line is its command, and a sequence goes on only after OK. -/

namespace Sys2Proof.Machine

theorem Line.run_eq_exec (l : Line) (s : State) : l.run s = exec l.instr s := by cases l <;> rfl

@[simp] theorem runLines_nil (s : State) : runLines [] s = .next s := rfl

theorem runLines_cons_ok {l : Line} {s t : State} (ls : List Line) (h : l.run s = .next t) (ok : t.status = 0#3) :
    runLines (l :: ls) s = runLines ls t := by simp [runLines, h, ok]

theorem runLines_cons_error {l : Line} {s t : State} (ls : List Line) (h : l.run s = .next t) (err : t.status ≠ 0#3) :
    runLines (l :: ls) s = .next t := by simp [runLines, h, err]

end Sys2Proof.Machine
end

