-- ==== Sys2Proof/Tests/Slice0.lean ====
section
/-! SUPPORT. Tests of the model: well-formedness, decoding of words written out from the spec's encodings, single steps
with results from the spec's test vectors (95_test_vectors.md) and examples, and for each statement states that meet its
hypotheses, at the boundaries of its clauses. -/

namespace Sys2Proof.Tests

-- Each test is checked before the next one begins: many small tests at once would wait on one another in threads.
set_option Elab.async false

open Sys2Proof Sys2Proof.Machine

/-! ### Well-formedness: an ill-formed term for each check -/

/-- A count of 65536 does not fit the u16 of a `bytes` operand. -/
theorem bytesOk_65536 (b : Byte) : bytesOk (List.replicate 65536 b) = false := by
  unfold bytesOk
  rw [List.length_replicate]
  rfl

theorem test_wf_csrRd : Instr.wellFormed (.csrRd 13#8) = false ∧ Instr.wellFormed (.csrRd 12#8) = true := by decide
theorem test_wf_asmReset : Instr.wellFormed (.asmReset 4097#16) = false := by decide
theorem test_wf_asmPutn : Instr.wellFormed (.asmPutn (List.replicate 65536 0#8)) = false :=
  bytesOk_65536 _
theorem test_wf_asmPutf_width : Instr.wellFormed (.asmPutf 0#8 0#32) = false ∧
    Instr.wellFormed (.asmPutf 33#8 0#32) = false := by decide
theorem test_wf_asmPutf_value : Instr.wellFormed (.asmPutf 4#8 16#32) = false := by decide
theorem test_wf_asmRsv12 : Instr.wellFormed (.asmRsv12 16#8) = false := by decide
theorem test_wf_descSize : Instr.wellFormed (.descSize 0x40#8 (List.replicate 65536 0#8)) = false :=
  bytesOk_65536 _
theorem test_wf_descEnc : Instr.wellFormed (.descEnc 0x40#8 (List.replicate 65536 0#8)) = false :=
  bytesOk_65536 _
theorem test_wf_descDec : Instr.wellFormed (.descDec 0x40#8 (List.replicate 65536 0#8)) = false :=
  bytesOk_65536 _
theorem test_wf_secInit : Instr.wellFormed (.secInit 0#8 0#16 32#8 0#16) = false ∧
    Instr.wellFormed (.secInit 0#8 0#16 31#8 0x2000#16) = false := by decide
theorem test_wf_secAddd : Instr.wellFormed (.secAddd 0x40#8 (List.replicate 65536 0#8)) = false :=
  bytesOk_65536 _
theorem test_wf_entAddd : Instr.wellFormed (.entAddd 0#16 0x40#8 (List.replicate 65536 0#8)) = false :=
  bytesOk_65536 _
theorem test_wf_secEnc : Instr.wellFormed (.secEnc 4097#16) = false := by decide
theorem test_wf_pktEnc : Instr.wellFormed (.pktEnc 1129#16) = false := by decide
theorem test_wf_networkName : Instr.wellFormed (.packNetworkName (List.replicate 256 0#8)) = false := by
  decide +kernel
theorem test_wf_serviceList : Instr.wellFormed (.packServiceList (List.replicate 86 ⟨0#16, 0#8⟩)) = false := by
  decide +kernel
theorem test_wf_linkage_trailer :
    Instr.wellFormed (.packLinkage ⟨1#16, 2#16, 3#16, 0x08#8, .absent, []⟩) = false ∧
    Instr.wellFormed (.packLinkage ⟨1#16, 2#16, 3#16, 0x01#8, .event ⟨0#16, 0#1, 0#1⟩, []⟩) = false ∧
    Instr.wellFormed (.packLinkage ⟨1#16, 2#16, 3#16, 0x20#8, .targets [], []⟩) = false := by decide
theorem test_wf_linkage_handOver :
    Instr.wellFormed (.packLinkage ⟨1#16, 2#16, 3#16, 0x08#8, .handOver ⟨4#4, 1#1, some 0#16, none⟩, []⟩) = false ∧
    Instr.wellFormed (.packLinkage ⟨1#16, 2#16, 3#16, 0x08#8, .handOver ⟨1#4, 0#1, some 0#16, none⟩, []⟩) = false := by
  decide
theorem test_wf_linkage_target :
    Instr.wellFormed (.packLinkage ⟨1#16, 2#16, 3#16, 0x0E#8,
      .targets [⟨0#16, 0#1, 0#1, 0#2, 3#2, 1#1, 0#1, some 0#16, none, some 0#16, none⟩], []⟩) = false := by decide
theorem test_wf_linkage_length :
    Instr.wellFormed (.packLinkage ⟨1#16, 2#16, 3#16, 1#8, .absent, List.replicate 249 0#8⟩) = false := by
  decide +kernel
theorem test_wf_shortEvent :
    Instr.wellFormed (.packShortEvent ⟨⟨0#8, 0#8, 0#8⟩, List.replicate 200 0#8, List.replicate 51 0#8⟩) = false := by
  decide +kernel
theorem test_wf_extendedEvent :
    Instr.wellFormed (.packExtendedEvent ⟨0#4, 0#4, ⟨0#8, 0#8, 0#8⟩, [], List.replicate 250 0#8⟩) = false := by
  decide +kernel
theorem test_wf_mlNetworkName :
    Instr.wellFormed (.packMlNetworkName [⟨⟨0#8, 0#8, 0#8⟩, List.replicate 252 0#8⟩]) = false := by decide +kernel
theorem test_wf_mlComponent :
    Instr.wellFormed (.packMlComponent ⟨7#8, [⟨⟨0#8, 0#8, 0#8⟩, List.replicate 251 0#8⟩]⟩) = false := by
  decide +kernel
theorem test_wf_frequencyList : Instr.wellFormed (.packFrequencyList ⟨0#2, List.replicate 64 0#32⟩) = false := by
  decide +kernel
theorem test_wf_dataBroadcast :
    Instr.wellFormed (.packDataBroadcast ⟨0#16, 0#8, List.replicate 248 0#8, ⟨0#8, 0#8, 0#8⟩, []⟩) = false := by
  decide +kernel
theorem test_wf_extension : Instr.wellFormed (.packExtension 0x04#8 []) = false ∧
    Instr.wellFormed (.packExtension 0x05#8 []) = true := by decide
theorem test_wf_extension_t2 :
    Instr.wellFormed (.packExtensionT2 ⟨0#8, 0#16, some ⟨0#2, 0#4, 0#3, 0#3, 0#1, 0#1, [⟨0#16, [], []⟩]⟩⟩) =
      false := by decide
theorem test_wf_opaque : Instr.wellFormed (.packOpaque 0x7F#8 []) = false ∧
    Instr.wellFormed (.packOpaque 0x80#8 []) = true := by decide

/-! ### Decoding words written out from the encodings (R73, R75 to R83, R150 to R166) -/

theorem test_decode_csrRd : decode .cmd [0x01#8, 0x06#8] = .ok (.csrRd 6#8) := by rfl
theorem test_decode_bufRd : decode .cmd [0x02#8, 0x00#8, 0x02#8, 0x01#8, 0x03#8] = .ok (.bufRd 2#16 0x103#16) := by rfl
theorem test_decode_obufRd :
    decode .cmd [0x03#8, 0x00#8, 0xBA#8, 0x00#8, 0x04#8] = .ok (.obufRd 186#16 4#16) := by rfl
theorem test_decode_asmReset : decode .cmd [0x10#8, 0x10#8, 0x01#8] = .ok (.asmReset 4097#16) := by rfl
theorem test_decode_asmPut8 : decode .cmd [0x11#8, 0x40#8] = .ok (.asmPut8 0x40#8) := by rfl
theorem test_decode_asmPut16 : decode .cmd [0x12#8, 0x30#8, 0x01#8] = .ok (.asmPut16 0x3001#16) := by rfl
theorem test_decode_asmPut32 :
    decode .cmd [0x13#8, 0x03#8, 0x76#8, 0xE6#8, 0xE7#8] = .ok (.asmPut32 0x0376E6E7#32) := by rfl
theorem test_decode_asmPutn :
    decode .cmd [0x14#8, 0x00#8, 0x03#8, 0x41#8, 0x42#8, 0x43#8] = .ok (.asmPutn [0x41#8, 0x42#8, 0x43#8]) := by rfl
theorem test_decode_asmPutf :
    decode .cmd [0x15#8, 0x0C#8, 0x00#8, 0x00#8, 0x00#8, 0x05#8] = .ok (.asmPutf 12#8 5#32) := by rfl
theorem test_decode_asmRsv8 : decode .cmd [0x16#8] = .ok .asmRsv8 := by rfl
theorem test_decode_asmRsv12 : decode .cmd [0x17#8, 0x0F#8] = .ok (.asmRsv12 0x0F#8) := by rfl
theorem test_decode_asmPatch : decode .cmd [0x18#8] = .ok .asmPatch := by rfl
theorem test_decode_descSize :
    decode .cmd [0x20#8, 0x40#8, 0x00#8, 0x03#8, 0x41#8, 0x42#8, 0x43#8] =
      .ok (.descSize 0x40#8 [0x41#8, 0x42#8, 0x43#8]) := by rfl
theorem test_decode_descEnc :
    decode .cmd [0x21#8, 0x41#8, 0x00#8, 0x02#8, 0x00#8, 0x00#8] = .ok (.descEnc 0x41#8 [0#8, 0#8]) := by rfl
theorem test_decode_descDec :
    decode .cmd [0x22#8, 0x90#8, 0x00#8, 0x02#8, 0x90#8, 0x00#8] = .ok (.descDec 0x90#8 [0x90#8, 0#8]) := by rfl
theorem test_decode_secInit :
    decode .cmd [0x30#8, 0x40#8, 0x00#8, 0x01#8, 0x02#8, 0x1F#8, 0xFF#8] =
      .ok (.secInit 0x40#8 1#16 2#8 0x1FFF#16) := by rfl
theorem test_decode_secAddd :
    decode .cmd [0x31#8, 0x40#8, 0x00#8, 0x01#8, 0x41#8] = .ok (.secAddd 0x40#8 [0x41#8]) := by rfl
theorem test_decode_secAdde :
    decode .cmd [0x32#8, 0x00#8, 0x01#8, 0x30#8, 0x01#8] = .ok (.secAdde 1#16 0x3001#16) := by rfl
theorem test_decode_entAddd :
    decode .cmd [0x33#8, 0x00#8, 0x02#8, 0x41#8, 0x00#8, 0x03#8, 0x00#8, 0x65#8, 0x01#8] =
      .ok (.entAddd 2#16 0x41#8 [0x00#8, 0x65#8, 0x01#8]) := by rfl
theorem test_decode_secSize : decode .cmd [0x34#8] = .ok .secSize := by rfl
theorem test_decode_secEnc : decode .cmd [0x35#8, 0x04#8, 0x00#8] = .ok (.secEnc 1024#16) := by rfl
theorem test_decode_crcCalc :
    decode .cmd [0x40#8, 0x00#8, 0x08#8, 0x00#8, 0x01#8] = .ok (.crcCalc 8#16 1#16) := by rfl
theorem test_decode_pktSize : decode .cmd [0x50#8] = .ok .pktSize := by rfl
theorem test_decode_pktEnc : decode .cmd [0x51#8, 0x00#8, 0xBC#8] = .ok (.pktEnc 188#16) := by rfl
theorem test_decode_reserved : decode .cmd [0x19#8] = .error .reservedOpcode ∧
    decode .cmd [0x00#8, 0x01#8] = .error .reservedOpcode := ⟨by rfl, by rfl⟩
theorem test_decode_wrong_length : decode .cmd [] = .error .badFrame ∧ decode .cmd [0x16#8, 0x00#8] = .error .badFrame ∧
    decode .cmd [0x14#8, 0x00#8, 0x02#8, 0x41#8] = .error .badFrame := ⟨by rfl, by rfl, by rfl⟩
theorem test_decode_networkName :
    decode .tlv [0x40#8, 0x03#8, 0x41#8, 0x42#8, 0x43#8] = .ok (.packNetworkName [0x41#8, 0x42#8, 0x43#8]) := by rfl
theorem test_decode_serviceList :
    decode .tlv [0x41#8, 0x06#8, 0x00#8, 0x65#8, 0x01#8, 0x00#8, 0x66#8, 0x02#8] =
      .ok (.packServiceList [⟨0x0065#16, 1#8⟩, ⟨0x0066#16, 2#8⟩]) := by rfl
/-- Byte 6 is 1 10 01 1 10 and bytes 7 to 10 are 0x123456 7 F (R152). -/
theorem test_decode_satDelivery :
    decode .tlv [0x43#8, 0x0B#8, 0x01#8, 0x17#8, 0x25#8, 0x00#8, 0x01#8, 0x92#8, 0xCE#8, 0x12#8, 0x34#8, 0x56#8,
      0x7F#8] =
      .ok (.packSatDelivery ⟨0x01172500#32, 0x0192#16, 1#1, 2#2, 1#2, 1#1, 2#2, 0x1234567#28, 0xF#4⟩) := by rfl
theorem test_decode_cableDelivery :
    decode .tlv [0x44#8, 0x0B#8, 0x03#8, 0x46#8, 0x00#8, 0x00#8, 0xFF#8, 0xF2#8, 0x03#8, 0x00#8, 0x68#8, 0x75#8,
      0x0A#8] = .ok (.packCableDelivery ⟨0x03460000#32, 2#4, 3#8, 0x0068750#28, 0xA#4⟩) := by rfl
/-- R155's example without a trailer, R156's three examples. -/
theorem test_decode_linkage :
    decode .tlv [0x4A#8, 0x07#8, 0x00#8, 0x01#8, 0x00#8, 0x02#8, 0x00#8, 0x03#8, 0x01#8] =
      .ok (.packLinkage ⟨1#16, 2#16, 3#16, 1#8, .absent, []⟩) ∧
    decode .tlv [0x4A#8, 0x0D#8, 0x00#8, 0x01#8, 0x00#8, 0x02#8, 0x00#8, 0x03#8, 0x08#8, 0x1E#8, 0x12#8, 0x34#8,
      0x56#8, 0x78#8, 0xAA#8] =
      .ok (.packLinkage ⟨1#16, 2#16, 3#16, 8#8, .handOver ⟨1#4, 0#1, some 0x1234#16, some 0x5678#16⟩, [0xAA#8]⟩) ∧
    decode .tlv [0x4A#8, 0x0A#8, 0x00#8, 0x01#8, 0x00#8, 0x02#8, 0x00#8, 0x03#8, 0x0D#8, 0x07#8, 0x77#8, 0xBF#8] =
      .ok (.packLinkage ⟨1#16, 2#16, 3#16, 0x0D#8, .event ⟨0x0777#16, 1#1, 0#1⟩, []⟩) := ⟨by rfl, by rfl, by rfl⟩
theorem test_decode_linkage_targets :
    decode .tlv [0x4A#8, 0x16#8, 0x00#8, 0x01#8, 0x00#8, 0x02#8, 0x00#8, 0x03#8, 0x0E#8, 0x0E#8, 0x01#8, 0x00#8,
      0x8C#8, 0xBE#8, 0xEF#8, 0x01#8, 0x01#8, 0x57#8, 0x00#8, 0x11#8, 0x00#8, 0x22#8, 0x00#8, 0x33#8] =
      .ok (.packLinkage ⟨1#16, 2#16, 3#16, 0x0E#8, .targets [
        ⟨0x0100#16, 1#1, 0#1, 0#2, 3#2, 0#1, 0#1, some 0xBEEF#16, none, none, none⟩,
        ⟨0x0101#16, 0#1, 1#1, 1#2, 1#2, 1#1, 1#1, none, some 0x0011#16, some 0x0022#16, some 0x0033#16⟩], []⟩) := by
  rfl
theorem test_decode_shortEvent :
    decode .tlv [0x4D#8, 0x0B#8, 0x65#8, 0x6E#8, 0x67#8, 0x04#8, 0x4E#8, 0x65#8, 0x77#8, 0x73#8, 0x02#8, 0x48#8,
      0x69#8] =
      .ok (.packShortEvent ⟨⟨0x65#8, 0x6E#8, 0x67#8⟩, [0x4E#8, 0x65#8, 0x77#8, 0x73#8], [0x48#8, 0x69#8]⟩) := by rfl
theorem test_decode_extendedEvent :
    decode .tlv [0x4E#8, 0x0E#8, 0x00#8, 0x65#8, 0x6E#8, 0x67#8, 0x06#8, 0x03#8, 0x44#8, 0x69#8, 0x72#8, 0x01#8,
      0x58#8, 0x02#8, 0x6F#8, 0x6B#8] =
      .ok (.packExtendedEvent ⟨0#4, 0#4, ⟨0x65#8, 0x6E#8, 0x67#8⟩, [⟨[0x44#8, 0x69#8, 0x72#8], [0x58#8]⟩],
        [0x6F#8, 0x6B#8]⟩) := by rfl
theorem test_decode_terrDelivery :
    decode .tlv [0x5A#8, 0x0B#8, 0x02#8, 0xD3#8, 0x44#8, 0x40#8, 0x1F#8, 0x82#8, 0x02#8, 0xFF#8, 0xFF#8, 0xFF#8,
      0xFF#8] =
      .ok (.packTerrDelivery ⟨0x02D34440#32, 0#3, 1#1, 1#1, 1#1, 2#2, 0#3, 2#3, 0#3, 0#2, 1#2, 0#1⟩) := by rfl
theorem test_decode_mlNetworkName :
    decode .tlv [0x5B#8, 0x0E#8, 0x65#8, 0x6E#8, 0x67#8, 0x03#8, 0x4E#8, 0x65#8, 0x74#8, 0x66#8, 0x72#8, 0x61#8,
      0x03#8, 0x52#8, 0x65#8, 0x73#8] =
      .ok (.packMlNetworkName [⟨⟨0x65#8, 0x6E#8, 0x67#8⟩, [0x4E#8, 0x65#8, 0x74#8]⟩,
        ⟨⟨0x66#8, 0x72#8, 0x61#8⟩, [0x52#8, 0x65#8, 0x73#8]⟩]) := by rfl
theorem test_decode_mlComponent :
    decode .tlv [0x5E#8, 0x06#8, 0x07#8, 0x65#8, 0x6E#8, 0x67#8, 0x01#8, 0x41#8] =
      .ok (.packMlComponent ⟨7#8, [⟨⟨0x65#8, 0x6E#8, 0x67#8⟩, [0x41#8]⟩]⟩) := by rfl
theorem test_decode_privateDataSpec :
    decode .tlv [0x5F#8, 0x04#8, 0x00#8, 0x00#8, 0x00#8, 0x28#8] = .ok (.packPrivateDataSpec 0x28#32) := by rfl
theorem test_decode_frequencyList :
    decode .tlv [0x62#8, 0x09#8, 0xFF#8, 0x02#8, 0xD3#8, 0x44#8, 0x40#8, 0x02#8, 0xDF#8, 0x79#8, 0x40#8] =
      .ok (.packFrequencyList ⟨3#2, [47400000#32, 48200000#32]⟩) := by rfl
theorem test_decode_dataBroadcast :
    decode .tlv [0x64#8, 0x0A#8, 0x00#8, 0x0A#8, 0x05#8, 0x01#8, 0x99#8, 0x65#8, 0x6E#8, 0x67#8, 0x01#8, 0x54#8] =
      .ok (.packDataBroadcast ⟨0x000A#16, 5#8, [0x99#8], ⟨0x65#8, 0x6E#8, 0x67#8⟩, [0x54#8]⟩) := by rfl
theorem test_decode_extension :
    decode .tlv [0x7F#8, 0x03#8, 0x05#8, 0xAA#8, 0xBB#8] = .ok (.packExtension 5#8 [0xAA#8, 0xBB#8]) := by rfl
/-- R165: plp_id, system id, 01 1111 11, 010 001 1 0, one cell with one frequency and one subcell. -/
theorem test_decode_extension_t2 :
    decode .tlv [0x7F#8, 0x13#8, 0x04#8, 0x09#8, 0x12#8, 0x34#8, 0x40#8, 0x46#8, 0x00#8, 0x07#8, 0x01#8, 0x02#8,
      0x03#8, 0x04#8, 0x05#8, 0x0B#8, 0x0A#8, 0x0B#8, 0x0C#8, 0x0D#8] = .error .badLength ∧
    decode .tlv [0x7F#8, 0x12#8, 0x04#8, 0x09#8, 0x12#8, 0x34#8, 0x40#8, 0x46#8, 0x00#8, 0x07#8, 0x01#8, 0x02#8,
      0x03#8, 0x04#8, 0x05#8, 0x0B#8, 0x0A#8, 0x0B#8, 0x0C#8, 0x0D#8] =
      .ok (.packExtensionT2 ⟨9#8, 0x1234#16, some ⟨1#2, 0#4, 2#3, 1#3, 1#1, 0#1,
        [⟨7#16, [0x01020304#32], [⟨0x0B#8, 0x0A0B0C0D#32⟩]⟩]⟩⟩) := ⟨by rfl, by rfl⟩
theorem test_decode_opaque :
    decode .tlv [0x90#8, 0x03#8, 0x01#8, 0x02#8, 0x03#8] = .ok (.packOpaque 0x90#8 [1#8, 2#8, 3#8]) := by rfl
theorem test_decode_unknown_tag : decode .tlv [0x20#8, 0x00#8] = .error .unknownTag := by rfl
/-- S9: the loop length of the target list does not land on an entry's end. -/
theorem test_decode_malformed :
    decode .tlv [0x4A#8, 0x0D#8, 0x00#8, 0x01#8, 0x00#8, 0x02#8, 0x00#8, 0x03#8, 0x0E#8, 0x04#8, 0x01#8, 0x00#8,
      0x8C#8, 0xBE#8, 0xEF#8] = .error .malformedPayload := by rfl
theorem test_decode_wireDescriptor : decode .wireDescriptor [0x40#8, 0x03#8] = .ok (.wireDescriptor 0x40#8 3#8) := by
  rfl
theorem test_decode_wireLengthWord : decode .wireLengthWord [0xB1#8, 0x2C#8] = .ok (.wireLengthWord 0xB#4 300#12) := by
  rfl
theorem test_decode_wireSectionHeader :
    decode .wireSectionHeader [0x41#8, 0xF0#8, 0xD7#8, 0x00#8, 0x02#8, 0xC3#8, 0x00#8, 0x00#8] =
      .ok (.wireSectionHeader 0x41#8 0x0D7#12 2#16 1#5) := by rfl
theorem test_decode_wireEntityHeader :
    decode .wireEntityHeader [0x00#8, 0x01#8, 0x30#8, 0x01#8] = .ok (.wireEntityHeader 1#16 0x3001#16) := by rfl
theorem test_decode_wireCrcTrailer :
    decode .wireCrcTrailer [0xE4#8, 0x3B#8, 0x31#8, 0x43#8] = .ok (.wireCrcTrailer 0xE43B3143#32) := by rfl
theorem test_decode_wireTsHeader :
    decode .wireTsHeader [0x47#8, 0x1F#8, 0xFF#8, 0x10#8] = .ok (.wireTsHeader 0#1 0x1FFF#13) ∧
    decode .wireTsHeader [0x47#8, 0x9F#8, 0xFF#8, 0x10#8] = .error .badPattern := ⟨by rfl, by rfl⟩
theorem test_decode_wirePointerField : decode .wirePointerField [0x00#8] = .ok .wirePointerField := by rfl

/-! ### Single steps -/

/-- A state with the bytes `bs` in BUF and capacity `cap`. -/
def withBytes (cap : Half) (bs : List Byte) : State :=
  { State.reset with cap := cap, wp := BitVec.ofNat 16 bs.length, buf := cellsFrom 0 bs }

/-- The next state, where there is one. -/
def after (o : Out) : State :=
  match o with
  | .next t => t
  | _ => { State.reset with status := 7#3 }

/-- There is a next state, and it satisfies `p`. -/
def answers (o : Out) (p : State → Bool) : Bool :=
  match o with
  | .next t => p t
  | _ => false

/-- STATUS and RESULT of the answer. -/
def answer (o : Out) : BitVec 3 × Word := ((after o).status, (after o).result)

/-- The bytes in BUF after `i` has run on an empty buffer of 64 bytes. -/
def bufAfter (i : Instr) : List Byte := (after (exec i (withBytes 64#16 []))).buf.map Prod.snd

/-- A section with the descriptor of R201's example. -/
def oneDescriptor : State :=
  { State.reset with
    valid := true, tableId := 0x40#8, networkId := 1#16, pid := 0x0010#13
    descs := [⟨0x40#8, [0x41#8, 0x42#8, 0x43#8]⟩] }

/-- The encoded descriptor of the source's example. -/
def encodedAbc : List Byte := [0x40#8, 0x03#8, 0x41#8, 0x42#8, 0x43#8]

/-- The 21 bytes of R206's example. -/
def exampleSection : List Byte :=
  [0x40#8, 0xF0#8, 0x12#8, 0x00#8, 0x01#8, 0xC1#8, 0x00#8, 0x00#8, 0xF0#8, 0x05#8, 0x40#8, 0x03#8, 0x41#8, 0x42#8,
   0x43#8, 0xF0#8, 0x00#8, 0xE4#8, 0x3B#8, 0x31#8, 0x43#8]

theorem test_exec_csrRd : answer (exec (.csrRd 0#8) State.reset) = (0#3, 0x47533933#32) ∧
    answer (exec (.csrRd 6#8) { State.reset with nb := 4#3, bv := 0x0F#7 }) = (0#3, 0x40F#32) := by decide
theorem test_exec_csrRd_section : answer (exec (.csrRd 9#8) oneDescriptor) = (0#3, 0x80400001#32) ∧
    answer (exec (.csrRd 13#8) oneDescriptor) = (6#3, 3#32) := by decide
theorem test_exec_bufRd :
    (after (exec (.bufRd 0#16 5#16) (withBytes 8#16 encodedAbc))).resp =
      [0#8, 0#8, 0#8, 0#8, 5#8, 0x40#8, 0x03#8, 0x41#8, 0x42#8, 0x43#8] := by decide
/-- V-A6. -/
theorem test_exec_bufRd_edge :
    answer (exec (.bufRd 4#16 0#16) (withBytes 4#16 [1#8, 2#8, 3#8, 4#8])) = (0#3, 0#32) ∧
    answer (exec (.bufRd 5#16 0#16) (withBytes 4#16 [1#8, 2#8, 3#8, 4#8])) = (6#3, 6#32) := by decide
theorem test_exec_obufRd : answer (exec (.obufRd 0#16 1#16) State.reset) = (6#3, 6#32) ∧
    answer (exec (.obufRd 0#16 0#16) State.reset) = (0#3, 0#32) := by decide
/-- V-A2. -/
theorem test_exec_asmReset : answer (exec (.asmReset 4097#16) State.reset) = (6#3, 3#32) ∧
    (after (exec (.asmReset 4096#16) (withBytes 8#16 encodedAbc))).wp = 0#16 := by decide
/-- V-A1. -/
theorem test_exec_asmPut8 : answer (exec (.asmPut8 0x40#8) State.reset) = (3#3, 1#32) := by decide
/-- V-A7. -/
theorem test_exec_asmPut16 : bufAfter (.asmPut16 0x3001#16) = [0x30#8, 0x01#8] ∧
    answer (exec (.asmPut16 0x3002#16) (withBytes 3#16 [0x30#8, 0x01#8])) = (3#3, 4#32) := by decide
/-- V-A3. -/
theorem test_exec_asmPut32 : bufAfter (.asmPut32 0x01020304#32) = [1#8, 2#8, 3#8, 4#8] := by decide
/-- V-A5. -/
theorem test_exec_asmPutn : answer (exec (.asmPutn []) (withBytes 4#16 [1#8, 2#8, 3#8, 4#8])) = (0#3, 4#32) := by
  decide
/-- V-A13. -/
theorem test_exec_asmPutf :
    let t := after (exec (.asmPutf 32#8 0#32) { withBytes 8#16 [] with nb := 7#3, bv := 0x7F#7 })
    (t.buf.map Prod.snd, t.nb, t.bv) = ([0xFE#8, 0#8, 0#8, 0#8], 7#3, 0#7) := by decide
/-- V-A14. -/
theorem test_exec_asmPutf_range : answer (exec (.asmPutf 33#8 0#32) State.reset) = (6#3, 3#32) ∧
    answer (exec (.asmPutf 4#8 0x10#32) State.reset) = (6#3, 3#32) := by decide
/-- V-A17, V-A26. -/
theorem test_exec_asmRsv8 :
    (after (exec .asmRsv8 (withBytes 8#16 [0x40#8]))).pstk = [⟨1#16, .w8⟩] ∧
    answer (exec .asmRsv8 (withBytes 1#16 [1#8])) = (3#3, 2#32) := by decide
/-- V-A21, V-A22. -/
theorem test_exec_asmRsv12 : bufAfter (.asmRsv12 0x0F#8) = [0xF0#8, 0#8] ∧
    answer (exec (.asmRsv12 16#8) State.reset) = (6#3, 3#32) := by decide
/-- V-A17. -/
theorem test_exec_asmPatch :
    let t := after (exec .asmPatch
      { withBytes 8#16 [0x40#8, 0#8, 0x41#8, 0x42#8, 0x43#8] with pstk := [⟨1#16, .w8⟩] })
    (t.buf.map Prod.snd, t.result, t.pstk) = (encodedAbc, 3#32, []) := by decide
/-- V-A23: the high 4 bits are kept. -/
theorem test_exec_asmPatch_w12 :
    let t := after (exec .asmPatch
      { withBytes 400#16 (0xB0#8 :: List.replicate 301 0#8) with pstk := [⟨0#16, .w12⟩] })
    (Memory.read t.buf 0, Memory.read t.buf 1, t.result) = (some 0xB1#8, some 0x2C#8, 300#32) := by decide +kernel
/-- V-D1, V-D14. -/
theorem test_exec_descSize : answer (exec (.descSize 0x40#8 [0x41#8, 0x42#8, 0x43#8]) State.reset) = (0#3, 5#32) ∧
    answer (exec (.descSize 0x20#8 (List.replicate 256 0#8)) State.reset) = (2#3, 0x20#32) := by decide +kernel
/-- V-D16, V-D20. -/
theorem test_exec_descEnc : bufAfter (.descEnc 0x40#8 [0x41#8, 0x42#8, 0x43#8]) = encodedAbc ∧
    answer (exec (.descEnc 0x41#8 [0#8, 0#8]) (withBytes 2#16 [])) = (1#3, 0#32) := by decide
/-- V-D2, V-D4. -/
theorem test_exec_descDec : answer (exec (.descDec 0x40#8 encodedAbc) State.reset) = (0#3, 3#32) ∧
    answer (exec (.descDec 0x41#8 encodedAbc) State.reset) = (5#3, 0x40#32) := by decide
theorem test_exec_secInit : answer (exec (.secInit 0x40#8 1#16 32#8 0x10#16) oneDescriptor) = (6#3, 3#32) ∧
    (after (exec (.secInit 0x40#8 1#16 31#8 0x1FFF#16) oneDescriptor)).descs = [] := by decide
theorem test_exec_secAddd : answer (exec (.secAddd 0x41#8 []) oneDescriptor) = (0#3, 2#32) ∧
    answer (exec (.secAddd 0x20#8 []) oneDescriptor) = (2#3, 0x20#32) := by decide
theorem test_exec_secAdde : answer (exec (.secAdde 1#16 0x3001#16) oneDescriptor) = (0#3, 0#32) ∧
    answer (exec (.secAdde 1#16 0x3001#16) State.reset) = (6#3, 7#32) := by decide
theorem test_exec_entAddd :
    answer (exec (.entAddd 1#16 0x41#8 []) { oneDescriptor with ents := [⟨1#16, 2#16, []⟩] }) = (6#3, 3#32) ∧
    (after (exec (.entAddd 0#16 0x41#8 []) { oneDescriptor with ents := [⟨1#16, 2#16, []⟩] })).ents =
      [⟨1#16, 2#16, [⟨0x41#8, []⟩]⟩] := by decide
theorem test_exec_secSize : answer (exec .secSize oneDescriptor) = (0#3, 21#32) := by decide
/-- R204 with one empty entity, for both values of ENTITY_DESC_LEN. -/
theorem test_exec_secSize_entity :
    [false, true].map (fun edl => secSize edl { oneDescriptor with ents := [⟨1#16, 2#16, []⟩] }) = [25, 27] := by
  decide
/-- R206's example. -/
theorem test_exec_secEnc :
    let t := after (exec (.secEnc 1024#16) oneDescriptor)
    (t.buf.map Prod.snd, t.result, t.encValid) = (exampleSection, 21#32, true) := by decide +kernel
/-- R284's example: SEC.ENC 10 on a 21-byte section. -/
theorem test_exec_secEnc_small : answer (exec (.secEnc 10#16) oneDescriptor) = (3#3, 21#32) := by decide
/-- R206's record of an entity with one descriptor, for both values of ENTITY_DESC_LEN (R79). -/
theorem test_entity_record :
    [false, true].map (fun edl => entityRecord edl ⟨1#16, 0x3001#16, [⟨0x90#8, [7#8]⟩]⟩) =
      [[0x00#8, 0x01#8, 0x30#8, 0x01#8, 0x90#8, 0x01#8, 0x07#8],
       [0x00#8, 0x01#8, 0x30#8, 0x01#8, 0xF0#8, 0x03#8, 0x90#8, 0x01#8, 0x07#8]] := by decide
/-- 2.1: "123456789", and the empty range at WP. -/
theorem test_exec_crcCalc :
    let s := withBytes 16#16 [0x31#8, 0x32#8, 0x33#8, 0x34#8, 0x35#8, 0x36#8, 0x37#8, 0x38#8, 0x39#8]
    answer (exec (.crcCalc 0#16 9#16) s) = (0#3, 0x0376E6E7#32) ∧
    answer (exec (.crcCalc 9#16 0#16) s) = (0#3, 0xFFFFFFFF#32) := by decide +kernel
theorem test_exec_pktSize : answer (exec .pktSize { State.reset with encValid := true, encLen := 218#16 }) =
    (0#3, 376#32) := by decide
/-- R252's example: header, section and stuffing. -/
theorem test_exec_pktEnc :
    let t := after (exec (.pktEnc 188#16)
      { withBytes 1024#16 exampleSection with encValid := true, encLen := 21#16, pid := 0x10#13 })
    (t.obuf.map Prod.snd, t.result) =
      ([0x47#8, 0x40#8, 0x10#8, 0x10#8, 0x00#8] ++ exampleSection ++ List.replicate 162 0xFF#8, 188#32) := by
  decide +kernel
theorem test_exec_packNetworkName :
    bufAfter (.packNetworkName [0x41#8, 0x42#8, 0x43#8]) =
      [0x40#8, 0x03#8, 0x41#8, 0x42#8, 0x43#8] := by decide +kernel
theorem test_exec_packServiceList :
    bufAfter (.packServiceList [⟨0x0065#16, 1#8⟩, ⟨0x0066#16, 2#8⟩]) =
      [0x41#8, 0x06#8, 0x00#8, 0x65#8, 0x01#8, 0x00#8, 0x66#8, 0x02#8] := by decide +kernel
theorem test_exec_packSatDelivery :
    bufAfter (.packSatDelivery ⟨0x01172500#32, 0x0192#16, 1#1, 2#2, 1#2, 1#1, 2#2, 0x1234567#28, 0xF#4⟩) =
      [0x43#8, 0x0B#8, 0x01#8, 0x17#8, 0x25#8, 0x00#8, 0x01#8, 0x92#8, 0xCE#8, 0x12#8, 0x34#8, 0x56#8, 
      0x7F#8] := by decide +kernel
theorem test_exec_packCableDelivery :
    bufAfter (.packCableDelivery ⟨0x03460000#32, 2#4, 3#8, 0x0068750#28, 0xA#4⟩) =
      [0x44#8, 0x0B#8, 0x03#8, 0x46#8, 0x00#8, 0x00#8, 0xFF#8, 0xF2#8, 0x03#8, 0x00#8, 0x68#8, 0x75#8, 
      0x0A#8] := by decide +kernel
theorem test_exec_packLinkage :
    bufAfter (.packLinkage ⟨1#16, 2#16, 3#16, 8#8, .handOver ⟨1#4, 0#1, some 0x1234#16, some 0x5678#16⟩, [0xAA#8]⟩) =
      [0x4A#8, 0x0D#8, 0x00#8, 0x01#8, 0x00#8, 0x02#8, 0x00#8, 0x03#8, 0x08#8, 0x1E#8, 0x12#8, 0x34#8, 
      0x56#8, 0x78#8, 0xAA#8] := by decide +kernel
theorem test_exec_packLinkage_targets :
    bufAfter (.packLinkage ⟨1#16, 2#16, 3#16, 0x0E#8, .targets [
      ⟨0x0100#16, 1#1, 0#1, 0#2, 3#2, 0#1, 0#1, some 0xBEEF#16, none, none, none⟩,
      ⟨0x0101#16, 0#1, 1#1, 1#2, 1#2, 1#1, 1#1, none, some 0x0011#16, some 0x0022#16, some 0x0033#16⟩], []⟩) =
      [0x4A#8, 0x16#8, 0x00#8, 0x01#8, 0x00#8, 0x02#8, 0x00#8, 0x03#8, 0x0E#8, 0x0E#8, 0x01#8, 0x00#8, 
      0x8C#8, 0xBE#8, 0xEF#8, 0x01#8, 0x01#8, 0x57#8, 0x00#8, 0x11#8, 0x00#8, 0x22#8, 0x00#8, 0x33#8] := by decide +kernel
theorem test_exec_packShortEvent :
    bufAfter (.packShortEvent ⟨⟨0x65#8, 0x6E#8, 0x67#8⟩, [0x4E#8, 0x65#8, 0x77#8, 0x73#8], [0x48#8, 0x69#8]⟩) =
      [0x4D#8, 0x0B#8, 0x65#8, 0x6E#8, 0x67#8, 0x04#8, 0x4E#8, 0x65#8, 0x77#8, 0x73#8, 0x02#8, 0x48#8, 
      0x69#8] := by decide +kernel
theorem test_exec_packExtendedEvent :
    bufAfter (.packExtendedEvent ⟨0#4, 0#4, ⟨0x65#8, 0x6E#8, 0x67#8⟩, [⟨[0x44#8, 0x69#8, 0x72#8], [0x58#8]⟩],
      [0x6F#8, 0x6B#8]⟩) =
      [0x4E#8, 0x0E#8, 0x00#8, 0x65#8, 0x6E#8, 0x67#8, 0x06#8, 0x03#8, 0x44#8, 0x69#8, 0x72#8, 0x01#8, 
      0x58#8, 0x02#8, 0x6F#8, 0x6B#8] := by decide +kernel
theorem test_exec_packTerrDelivery :
    bufAfter (.packTerrDelivery ⟨0x02D34440#32, 0#3, 1#1, 1#1, 1#1, 2#2, 0#3, 2#3, 0#3, 0#2, 1#2, 0#1⟩) =
      [0x5A#8, 0x0B#8, 0x02#8, 0xD3#8, 0x44#8, 0x40#8, 0x1F#8, 0x82#8, 0x02#8, 0xFF#8, 0xFF#8, 0xFF#8, 
      0xFF#8] := by decide +kernel
theorem test_exec_packMlNetworkName :
    bufAfter (.packMlNetworkName [⟨⟨0x65#8, 0x6E#8, 0x67#8⟩, [0x4E#8, 0x65#8, 0x74#8]⟩,
      ⟨⟨0x66#8, 0x72#8, 0x61#8⟩, [0x52#8, 0x65#8, 0x73#8]⟩]) =
      [0x5B#8, 0x0E#8, 0x65#8, 0x6E#8, 0x67#8, 0x03#8, 0x4E#8, 0x65#8, 0x74#8, 0x66#8, 0x72#8, 0x61#8, 
      0x03#8, 0x52#8, 0x65#8, 0x73#8] := by decide +kernel
theorem test_exec_packMlComponent :
    bufAfter (.packMlComponent ⟨7#8, [⟨⟨0x65#8, 0x6E#8, 0x67#8⟩, [0x41#8]⟩]⟩) =
      [0x5E#8, 0x06#8, 0x07#8, 0x65#8, 0x6E#8, 0x67#8, 0x01#8, 0x41#8] := by decide +kernel
theorem test_exec_packPrivateDataSpec :
    bufAfter (.packPrivateDataSpec 0x28#32) =
      [0x5F#8, 0x04#8, 0x00#8, 0x00#8, 0x00#8, 0x28#8] := by decide +kernel
theorem test_exec_packFrequencyList :
    bufAfter (.packFrequencyList ⟨3#2, [47400000#32, 48200000#32]⟩) =
      [0x62#8, 0x09#8, 0xFF#8, 0x02#8, 0xD3#8, 0x44#8, 0x40#8, 0x02#8, 0xDF#8, 0x79#8, 0x40#8] := by decide +kernel
theorem test_exec_packDataBroadcast :
    bufAfter (.packDataBroadcast ⟨0x000A#16, 5#8, [0x99#8], ⟨0x65#8, 0x6E#8, 0x67#8⟩, [0x54#8]⟩) =
      [0x64#8, 0x0A#8, 0x00#8, 0x0A#8, 0x05#8, 0x01#8, 0x99#8, 0x65#8, 0x6E#8, 0x67#8, 0x01#8, 0x54#8] := by decide +kernel
theorem test_exec_packExtension :
    bufAfter (.packExtension 5#8 [1#8, 2#8]) =
      [0x7F#8, 0x03#8, 0x05#8, 0x01#8, 0x02#8] := by decide +kernel
theorem test_exec_packExtensionT2 :
    bufAfter (.packExtensionT2 ⟨1#8, 0x1001#16, some ⟨0#2, 0#4, 3#3, 1#3, 0#1, 0#1,
      [⟨1#16, [47400000#32], [⟨2#8, 48200000#32⟩]⟩]⟩⟩) =
      [0x7F#8, 0x12#8, 0x04#8, 0x01#8, 0x10#8, 0x01#8, 0x03#8, 0x64#8, 0x00#8, 0x01#8, 0x02#8, 0xD3#8, 
      0x44#8, 0x40#8, 0x05#8, 0x02#8, 0x02#8, 0xDF#8, 0x79#8, 0x40#8] := by decide +kernel
theorem test_exec_packExtensionT2_tfs :
    bufAfter (.packExtensionT2 ⟨0#8, 2#16, some ⟨1#2, 3#4, 0#3, 0#3, 1#1, 1#1, [⟨5#16, [1#32, 2#32], []⟩]⟩⟩) =
      [0x7F#8, 0x12#8, 0x04#8, 0x00#8, 0x00#8, 0x02#8, 0x4F#8, 0x03#8, 0x00#8, 0x05#8, 0x08#8, 0x00#8, 
      0x00#8, 0x00#8, 0x01#8, 0x00#8, 0x00#8, 0x00#8, 0x02#8, 0x00#8] := by decide +kernel
theorem test_exec_packOpaque :
    bufAfter (.packOpaque 0x90#8 [1#8, 2#8, 3#8]) =
      [0x90#8, 0x03#8, 0x01#8, 0x02#8, 0x03#8] := by decide +kernel
theorem test_exec_wireDescriptor :
    bufAfter (.wireDescriptor 0x40#8 3#8) =
      [0x40#8, 0x03#8] := by decide +kernel
theorem test_exec_wireLengthWord :
    bufAfter (.wireLengthWord 0xB#4 300#12) =
      [0xB1#8, 0x2C#8] := by decide +kernel
theorem test_exec_wireSectionHeader :
    bufAfter (.wireSectionHeader 0x40#8 18#12 1#16 0#5) =
      [0x40#8, 0xF0#8, 0x12#8, 0x00#8, 0x01#8, 0xC1#8, 0x00#8, 0x00#8] := by decide +kernel
theorem test_exec_wireEntityHeader :
    bufAfter (.wireEntityHeader 1#16 0x3001#16) =
      [0x00#8, 0x01#8, 0x30#8, 0x01#8] := by decide +kernel
theorem test_exec_wireCrcTrailer :
    bufAfter (.wireCrcTrailer 0xE43B3143#32) =
      [0xE4#8, 0x3B#8, 0x31#8, 0x43#8] := by decide +kernel
theorem test_exec_wireTsHeader :
    bufAfter (.wireTsHeader 1#1 0x1FFF#13) =
      [0x47#8, 0x5F#8, 0xFF#8, 0x10#8] := by decide +kernel
theorem test_exec_wirePointerField :
    bufAfter (.wirePointerField) =
      [0x00#8] := by decide +kernel

/-! ### The CRC table (R236): some entries, the exclusive-or and the sum of all -/

theorem test_crcTable_entries :
    (crcTableEntry 2#8, crcTableEntry 0x80#8, crcTableEntry 0xFF#8, crcTableEntry 111#8) =
      (0x09823B6E#32, 0x690CE0EE#32, 0xB1F740B4#32, 0x94EA7B2A#32) := by decide
theorem test_crcTable_xor : crcTable.foldl (· ^^^ ·) 0#32 = 0#32 := by decide +kernel
theorem test_crcTable_sum : crcTable.foldl (· + ·) 0#32 = 0xFFFFFF80#32 := by decide +kernel

/-! ### The port and the words of the opcode table -/

theorem test_step_reserved : answer (step { State.reset with port := [.frame [0x19#8]] }) = (6#3, 1#32) := by decide
theorem test_step_empty : answer (step { State.reset with port := [.frame []] }) = (6#3, 8#32) := by decide
theorem test_step_reset :
    step { withBytes 8#16 encodedAbc with status := 3#3, port := [.reset, .frame [0x34#8]] } =
      .next { State.reset with port := [.frame [0x34#8]] } := by rfl
/-- CRC.APPEND after "123456789" (2.1). -/
theorem test_step_crcAppend :
    let s := withBytes 16#16 [0x31#8, 0x32#8, 0x33#8, 0x34#8, 0x35#8, 0x36#8, 0x37#8, 0x38#8, 0x39#8]
    ((after (step { s with port := [.crcAppend] })).buf.map Prod.snd).drop 9 =
      [0x03#8, 0x76#8, 0xE6#8, 0xE7#8] := by decide +kernel
theorem test_table_words :
    decodeTableWord 8 0x34 = some .secSize ∧ decodeTableWord 8 0x43 = some (.packSatDelivery ⟨0, 0, 0, 0, 0, 0, 0, 0, 0⟩) ∧
    decodeTableWord 8 0x90 = some (.packOpaque 0x90#8 []) ∧
    decodeTableWord 16 0xF000 = some (.wireLengthWord 0xF#4 0#12) ∧
    decodeTableWord 32 0x47000010 = some (.wireTsHeader 0#1 0#13) := by decide +kernel
theorem test_withFetchWord :
    answer (step (State.reset.withFetchWord 8 0x34)) = (6#3, 7#32) ∧
    answer (step (State.reset.withFetchWord 8 0x11)) = (3#3, 1#32) := by decide +kernel

/-! ### States that meet the statements' hypotheses, each clause at a boundary -/

/-- Eight open one-byte fields, the patch stack full. -/
def fullStack : List PatchEntry := [⟨7#16, .w8⟩, ⟨6#16, .w8⟩, ⟨5#16, .w8⟩, ⟨4#16, .w8⟩, ⟨3#16, .w8⟩, ⟨2#16, .w8⟩,
  ⟨1#16, .w8⟩, ⟨0#16, .w8⟩]

/-- An empty section, opened. -/
def emptySection : State := { State.reset with valid := true, tableId := 0x40#8 }

/-- Four opaque descriptors that make a section of exactly 1024 bytes, and one byte more. -/
def bigSection (n : Nat) : State :=
  { emptySection with descs := List.replicate 3 ⟨0x90#8, List.replicate 255 0#8⟩ ++ [⟨0x90#8, List.replicate n 0#8⟩] }

/-- One entity with one descriptor. -/
def entitySection : State := { emptySection with ents := [⟨1#16, 2#16, [⟨0x90#8, [7#8]⟩]⟩] }

/-- A packet of zeros in OBUF. -/
def onePacket : State := { State.reset with obuf := cellsFrom 0 (List.replicate 188 0#8), olen := 188#16 }

/-- The empty section with its encoding in BUF: R78's smallest section. -/
def encodedSection : State :=
  { emptySection with
    buf := cellsFrom 0 [0x40#8, 0xF0#8, 0x0D#8, 0x00#8, 0x00#8, 0xC1#8, 0x00#8, 0x00#8, 0xF0#8, 0x00#8, 0xF0#8, 0x00#8,
      0x60#8, 0x24#8, 0x58#8, 0xC8#8]
    wp := 16#16, cap := 16#16, encValid := true, encLen := 16#16 }

theorem witness_CsrReadGivesTheNumberedRegister :
    ({ State.reset with pstk := fullStack } : State).pstk.length ≤ Config.patchDepth ∧ 12 < (13#8 : Byte).toNat ∧
    (0#8 : Byte).toNat < 13 ∧ (12#8 : Byte).toNat < 13 := by decide
theorem witness_BufRdReturnsWrittenCells :
    let s := withBytes 5#16 encodedAbc
    WrittenUpTo s.buf s.wp.toNat ∧ (3#16 : Half).toNat + (2#16 : Half).toNat = s.wp.toNat ∧
    ¬(3#16 : Half).toNat + (3#16 : Half).toNat ≤ s.wp.toNat := by decide
theorem witness_ObufRdReturnsWrittenCells :
    WrittenUpTo onePacket.obuf onePacket.olen.toNat ∧
    (184#16 : Half).toNat + (4#16 : Half).toNat = onePacket.olen.toNat ∧
    ¬(184#16 : Half).toNat + (5#16 : Half).toNat ≤ onePacket.olen.toNat := by decide +kernel
theorem witness_AsmResetEmptiesTheAssembly : (4096#16 : Half).toNat ≤ 4096 ∧ ¬(4097#16 : Half).toNat ≤ 4096 := by
  decide
/-- Bits pending; one byte short; exactly the room, in a buffer of the full size; a count of 65535. -/
theorem witness_PutCommandsAppendBigEndian :
    ({ withBytes 4#16 [] with nb := 1#3 } : State).nb ≠ 0#3 ∧
    (let s := withBytes 3#16 []; s.nb = 0#3 ∧ s.cap.toNat < s.wp.toNat + (bigEndian 4 0).length) ∧
    (let s := withBytes 4096#16 []; s.nb = 0#3 ∧ ¬s.cap.toNat < s.wp.toNat + (bigEndian 4 0).length ∧
      s.cap.toNat ≤ Config.bufSize) := by decide
theorem witness_PutfAppendsAField :
    (1 ≤ (32#8 : Byte).toNat ∧ (32#8 : Byte).toNat ≤ 32 ∧ (0xFFFFFFFF#32 : Word).toNat < 2 ^ (32#8 : Byte).toNat) ∧
    ¬(1 ≤ (0#8 : Byte).toNat) ∧ ¬(0x10#32 : Word).toNat < 2 ^ (4#8 : Byte).toNat ∧
    (let s := { withBytes 3#16 [] with nb := 7#3 }; s.cap.toNat < s.wp.toNat + (s.nb.toNat + 32) / 8) ∧
    (let s := { withBytes 4#16 [] with nb := 7#3 };
      ¬s.cap.toNat < s.wp.toNat + (s.nb.toNat + 32) / 8 ∧ s.cap.toNat ≤ 4096) := by decide
theorem witness_BitPackerConcatenatesFields_sequence :
    let fs : List (Byte × Word) := [(4#8, 0xF#32), (12#8, 5#32)]
    let s := withBytes 2#16 []
    fs ≠ [] ∧ (∀ f ∈ fs, 1 ≤ f.1.toNat ∧ f.1.toNat ≤ 32 ∧ f.2.toNat < 2 ^ f.1.toNat) ∧
    (fs.map fun f => f.1.toNat).sum = 8 * 2 ∧ s.bv = 0#7 ∧ Room s 2 := by
  refine ⟨by decide, ?_, by decide, by decide, by decide⟩
  simp
theorem witness_BitPackerConcatenatesFields_split :
    let s := { withBytes 4#16 [] with nb := 7#3, bv := 0x7F#7 }
    (1#8 : Byte).toNat + (31#8 : Byte).toNat ≤ 32 ∧ (1#32 : Word).toNat < 2 ^ (1#8 : Byte).toNat ∧
    (0x7FFFFFFF#32 : Word).toNat < 2 ^ (31#8 : Byte).toNat ∧ s.bv.toNat < 2 ^ s.nb.toNat ∧
    s.wp.toNat + (s.nb.toNat + 1 + 31) / 8 ≤ s.cap.toNat ∧ s.cap.toNat ≤ Config.bufSize := by decide
/-- Bits pending; the stack full; one byte short; exactly the room with seven fields open. -/
theorem witness_Rsv8ReservesALengthByte :
    ({ withBytes 4#16 [] with nb := 1#3 } : State).nb ≠ 0#3 ∧
    (let s := { withBytes 9#16 (List.replicate 8 0#8) with pstk := fullStack };
      s.nb = 0#3 ∧ Config.patchDepth ≤ s.pstk.length) ∧
    (let s := withBytes 5#16 encodedAbc; s.pstk.length < Config.patchDepth ∧ s.cap.toNat < s.wp.toNat + 1) ∧
    (let s := { withBytes 9#16 (List.replicate 8 0#8) with pstk := fullStack.tail };
      s.nb = 0#3 ∧ s.pstk.length < Config.patchDepth ∧ ¬s.cap.toNat < s.wp.toNat + 1 ∧
      s.cap.toNat ≤ Config.bufSize) := by decide
theorem witness_Rsv12ReservesALengthWord :
    (15#8 : Byte).toNat ≤ 15 ∧ ¬(16#8 : Byte).toNat ≤ 15 ∧
    (let s := { withBytes 10#16 (List.replicate 8 0#8) with pstk := fullStack.tail };
      s.nb = 0#3 ∧ s.pstk.length < Config.patchDepth ∧ ¬s.cap.toNat < s.wp.toNat + 2 ∧
      s.cap.toNat ≤ Config.bufSize) ∧
    (let s := withBytes 6#16 encodedAbc; s.pstk.length < Config.patchDepth ∧ s.cap.toNat < s.wp.toNat + 2) := by decide
/-- A one-byte field with 255 bytes behind it, and with 256. -/
theorem witness_PatchWritesTheCount :
    ∀ n ∈ [256, 257],
      let s := { withBytes 300#16 (List.replicate n 0#8) with pstk := [⟨0#16, .w8⟩] }
      s.nb = 0#3 ∧ s.pstk = [⟨0#16, .w8⟩] ∧ (0#16 : Half).toNat + fsize .w8 ≤ s.wp.toNat ∧ s.wp.toNat ≤ 4096 ∧
      WrittenUpTo s.buf s.wp.toNat ∧ (s.wp.toNat - (0#16 : Half).toNat - fsize .w8 ≤ 255 ↔ n = 256) := by
  decide +kernel
/-- A two-byte field with 4095 bytes behind it does not fit BUF, one with 4094 does. -/
theorem witness_PatchWritesTheCount_w12 :
    let s := { withBytes 16#16 (0xF0#8 :: 0#8 :: encodedAbc) with pstk := [⟨0#16, .w12⟩] }
    s.nb = 0#3 ∧ s.pstk = ⟨0#16, .w12⟩ :: [] ∧ (0#16 : Half).toNat + fsize .w12 ≤ s.wp.toNat ∧ s.wp.toNat ≤ 4096 ∧
    WrittenUpTo s.buf s.wp.toNat ∧ s.wp.toNat - (0#16 : Half).toNat - fsize .w12 ≤ 4095 := by decide
theorem witness_PatchWritesTheCount_errors :
    ({ State.reset with nb := 1#3 } : State).nb ≠ 0#3 ∧ (State.reset.nb = 0#3 ∧ State.reset.pstk = []) := by decide
theorem witness_TwoPassPatternPrefixesTheLength :
    let body : List (List Byte) := [List.replicate 200 0#8, [], List.replicate 55 0#8]
    let s := { withBytes 268#16 (List.replicate 10 0#8) with pstk := fullStack.tail }
    s.pstk.length < 8 ∧ body.flatten.length ≤ 255 ∧ Room s (1 + body.flatten.length) ∧ (15#8 : Byte).toNat ≤ 15 ∧
    Room s (2 + body.flatten.length) := by decide +kernel
theorem witness_LookupHasThreeArms :
    (0x7F#8 ∈ registeredTags) ∧ (0x80#8 ∉ registeredTags ∧ 0x80 ≤ (0x80#8 : Byte).toNat) ∧
    (0x7E#8 ∉ registeredTags ∧ (0x7E#8 : Byte).toNat < 0x80) := by decide
theorem witness_WfHoldsWhereParseIsDefined :
    lookup 0x41#8 = .ok .serviceList ∧ (List.replicate 255 0#8 : List Byte).length ≤ 255 := ⟨by rfl, by decide +kernel⟩
theorem witness_DescEncAppendsTheEncoding :
    (let s := { withBytes 9#16 (List.replicate 8 0#8) with pstk := fullStack }; s.nb = 0#3 ∧ 8 ≤ s.pstk.length) ∧
    admitError 0x20#8 [] ≠ none ∧ admitError 0x40#8 [0x41#8, 0x42#8, 0x43#8] = none ∧
    (let s := withBytes 4#16 []; s.nb = 0#3 ∧ ¬8 ≤ s.pstk.length ∧ s.cap.toNat < s.wp.toNat + 3 + 2) ∧
    (let s := withBytes 5#16 [];
      s.nb = 0#3 ∧ ¬8 ≤ s.pstk.length ∧ ¬s.cap.toNat < s.wp.toNat + 3 + 2 ∧ s.cap.toNat ≤ 4096) := by decide
theorem witness_DescDecChecksOneDescriptor :
    knownTag 0x20#8 = false ∧ knownTag 0x40#8 = true ∧ encodedAbc.length = (3#8 : Byte).toNat + 2 ∧
    parseKind 0x41#8 [0#8, 0#8] = none ∧ parseKind 0x40#8 [0x41#8, 0x42#8, 0x43#8] ≠ none := by decide
theorem witness_DescriptorCommandsAgree :
    create 0x40#8 [0x41#8, 0x42#8, 0x43#8] = .ok ⟨0x40#8, [0x41#8, 0x42#8, 0x43#8]⟩ ∧
    (withBytes 5#16 []).pstk.length < 8 ∧ Room (withBytes 5#16 []) 5 := ⟨by rfl, by decide, by decide⟩
theorem witness_SecInitStartsAnEmptySection :
    ((31#8 : Byte).toNat ≤ 31 ∧ (0x1FFF#16 : Half).toNat ≤ 0x1FFF) ∧ ¬(32#8 : Byte).toNat ≤ 31 ∧
    ¬(0x2000#16 : Half).toNat ≤ 0x1FFF := by decide
theorem witness_SecAdddAppendsADescriptor : emptySection.valid = true ∧ emptySection.descs.length + 1 < 2 ^ 32 ∧
    admitError 0x41#8 [] = none ∧ ¬State.reset.valid = true := by decide
theorem witness_EntAdddExtendsOneEntity : entitySection.valid = true ∧
    entitySection.ents[(0#16 : Half).toNat]? = some ⟨1#16, 2#16, [⟨0x90#8, [7#8]⟩]⟩ ∧
    entitySection.ents.length ≤ (1#16 : Half).toNat := by decide
/-- The smallest section with exactly its capacity, and the section of exactly MAX_SECTION bytes. -/
theorem witness_SecEncWritesTheSection : SecReady 16#16 emptySection ∧ SecReady 1024#16 (bigSection 235) := by
  decide +kernel
theorem witness_SecEncWritesTheSection_errors :
    4096 < (4097#16 : Half).toNat ∧ State.reset.valid = false ∧
    1024 < secSize Config.entityDescLen (bigSection 236) ∧
    (15#16 : Half).toNat < secSize Config.entityDescLen emptySection := by decide +kernel
/-- A section with an entity, for either value of ENTITY_DESC_LEN. -/
theorem witness_SectionLengthsAndChecksumAgree : SecReady 29#16 entitySection ∧ SecReady 4096#16 entitySection := by
  simp only [SecReady]
  cases Config.entityDescLen <;> decide
theorem witness_CrcCalcChecksumsARange :
    (let s := withBytes 8#16 encodedAbc;
      WrittenUpTo s.buf s.wp.toNat ∧ s.nb = 0#3 ∧ ¬s.wp.toNat < (0#16 : Half).toNat + (5#16 : Half).toNat ∧
      s.wp.toNat < (0#16 : Half).toNat + (6#16 : Half).toNat) ∧
    (let s := { withBytes 8#16 encodedAbc with nb := 1#3 };
      WrittenUpTo s.buf s.wp.toNat ∧ s.nb ≠ 0#3) := by decide
theorem witness_CrcTableIsLinear :
    crcTable[(255#8 : Byte).toNat]? = some 0xB1F740B4#32 ∧ crcTable[(0#8 : Byte).toNat]? = some 0#32 := by decide +kernel
theorem witness_CrcAppendAppendsTheChecksum :
    (let s := withBytes 9#16 encodedAbc; WrittenUpTo s.buf s.wp.toNat ∧ Room s 4) ∧
    (let s := withBytes 8#16 encodedAbc;
      WrittenUpTo s.buf s.wp.toNat ∧ s.nb = 0#3 ∧ s.cap.toNat < s.wp.toNat + 4) ∧
    (let s := { withBytes 8#16 encodedAbc with nb := 1#3 };
      WrittenUpTo s.buf s.wp.toNat ∧ s.nb ≠ 0#3) := by decide
theorem witness_PacketCountCoversTheSection : 16 ≤ 16 ∧ 16 ≤ 1024 ∧ 16 ≤ 1024 ∧ 1024 ≤ 1024 := by decide
theorem witness_PktSizeCountsPacketBytes :
    ({ State.reset with encValid := true } : State).encValid = true ∧ ¬State.reset.encValid = true := by decide
/-- A section of 183 bytes, which fills one packet exactly, and the capacity one byte short of it. -/
theorem witness_PktEncFramesTheSection :
    let s := { withBytes 1024#16 (List.replicate 183 0#8) with encValid := true, encLen := 183#16 }
    ¬1128 < (188#16 : Half).toNat ∧ ¬s.encValid = false ∧
    ¬(188#16 : Half).toNat < (s.encLen.toNat + 184) / 184 * 188 ∧
    (187#16 : Half).toNat < (s.encLen.toNat + 184) / 184 * 188 ∧ 1128 < (1129#16 : Half).toNat ∧
    WrittenUpTo s.buf s.encLen.toNat := by decide +kernel
theorem witness_EncodedSectionCanBePacketized :
    SecReady 1024#16 (bigSection 235) ∧ (1128#16 : Half).toNat ≤ 1128 ∧
    (secSize Config.entityDescLen (bigSection 235) + 184) / 184 * 188 ≤ (1128#16 : Half).toNat := by decide +kernel
/-- Two states that differ in the section, the patch stack and OBUF. -/
theorem witness_PacketsDependOnlyOnSectionAndPid :
    let s := { withBytes 1024#16 (List.replicate 21 0#8) with encValid := true, encLen := 21#16 }
    let s' := { s with descs := [⟨0x90#8, []⟩], pstk := fullStack, obuf := onePacket.obuf, olen := 188#16 }
    s.buf = s'.buf ∧ s.encLen = s'.encLen ∧ s.pid = s'.pid ∧ s.encValid = true ∧ s'.encValid = true ∧
    WrittenUpTo s.buf s.encLen.toNat ∧ (188#16 : Half).toNat ≤ 1128 ∧ (1128#16 : Half).toNat ≤ 1128 ∧
    (s.encLen.toNat + 184) / 184 * 188 ≤ (188#16 : Half).toNat ∧
    (s.encLen.toNat + 184) / 184 * 188 ≤ (1128#16 : Half).toNat ∧ s ≠ s' := by decide +kernel
/-- The largest payload of each kind of the statement, with exactly its room and seven fields open. -/
theorem witness_PackAppendsByteKinds :
    let s := { withBytes 265#16 (List.replicate 8 0#8) with pstk := fullStack.tail }
    s.pstk.length < 8 ∧ (List.replicate 255 0#8 : List Byte).length ≤ 255 ∧ Room s (2 + 255) ∧
    3 * (List.replicate 85 (⟨0#16, 0#8⟩ : ServiceEntry)).length ≤ 255 ∧ Room s (2 + 3 * 85) ∧ Room s 6 ∧
    (List.replicate 254 0#8 : List Byte).length ≤ 254 ∧ Room s (3 + 254) ∧ (5#8 : Byte) ≠ 0x04#8 ∧
    parseT2 (0x04#8 :: [1#8, 2#8]) = none ∧
    parseT2 (0x04#8 :: [1#8, 0x10#8, 0x01#8]) = some ⟨1#8, 0x1001#16, none⟩ := by decide +kernel
theorem witness_PackAppendsBitPackedKinds :
    let s := { withBytes 264#16 (List.replicate 8 0#8) with pstk := fullStack.tail }
    s.bv.toNat < 2 ^ s.nb.toNat ∧ s.pstk.length < 8 ∧ Room s 13 ∧ 1 + 4 * (List.replicate 63 0#32 : List Word).length ≤ 255 ∧
    Room s (3 + 4 * 63) := by decide +kernel
/-- The largest short event with six fields open, and the largest extended event with five. -/
theorem witness_PackAppendsTextKinds :
    let i : Instr := .packShortEvent ⟨⟨0#8, 0#8, 0#8⟩, List.replicate 250 0#8, []⟩
    let j : Instr := .packExtendedEvent ⟨0#4, 0#4, ⟨0#8, 0#8, 0#8⟩, [⟨[], [1#8]⟩], List.replicate 246 0#8⟩
    (let s := { withBytes 265#16 (List.replicate 8 0#8) with pstk := fullStack.tail.tail };
      i.wellFormed = true ∧ Room s (encode i).length ∧ s.pstk.length + 2 ≤ 8) ∧
    (let s := { withBytes 265#16 (List.replicate 8 0#8) with pstk := fullStack.tail.tail.tail };
      j.wellFormed = true ∧ Room s (encode j).length ∧ s.pstk.length + 3 ≤ 8 ∧ s.bv.toNat < 2 ^ s.nb.toNat) := by decide +kernel
theorem witness_PackAppendsTextKinds_others :
    let s := withBytes 64#16 []
    let k : Instr := .packMlNetworkName [⟨⟨0#8, 0#8, 0#8⟩, [1#8]⟩]
    let l : Instr := .packMlComponent ⟨7#8, []⟩
    let m : Instr := .packDataBroadcast ⟨0#16, 0#8, [], ⟨0#8, 0#8, 0#8⟩, []⟩
    k.wellFormed = true ∧ Room s (encode k).length ∧ l.wellFormed = true ∧ Room s (encode l).length ∧
    m.wellFormed = true ∧ Room s (encode m).length ∧ s.pstk.length + 2 ≤ 8 := by decide
theorem witness_PackAppendsSelectedKinds :
    let s := { withBytes 32#16 (List.replicate 8 0#8) with pstk := fullStack.tail.tail }
    let i : Instr := .packLinkage ⟨1#16, 2#16, 3#16, 0x1F#8,
      .targets [⟨0x0100#16, 1#1, 0#1, 0#2, 3#2, 0#1, 0#1, some 0xBEEF#16, none, none, none⟩], [0xAA#8]⟩
    let j : Instr := .packExtensionT2 ⟨0#8, 2#16, some ⟨1#2, 3#4, 0#3, 0#3, 1#1, 1#1, [⟨5#16, [1#32, 2#32], []⟩]⟩⟩
    s.pstk.length + 2 ≤ 8 ∧ s.bv.toNat < 2 ^ s.nb.toNat ∧ i.wellFormed = true ∧ Room s (encode i).length ∧ j.wellFormed = true ∧
    Room s (encode j).length := by decide
theorem witness_PackFailsWhereItsFirstCommandFails :
    packed (.packPrivateDataSpec 0#32) = some (0x5F#8, [0#8, 0#8, 0#8, 0#8]) ∧
    ({ State.reset with nb := 1#3 } : State).nb ≠ 0#3 ∧
    (let s := withBytes 5#16 encodedAbc; s.nb = 0#3 ∧ s.cap.toNat < s.wp.toNat + 1) ∧
    (let s := { withBytes 9#16 (List.replicate 8 0#8) with pstk := fullStack };
      Room s 1 ∧ 8 ≤ s.pstk.length ∧ s.cap.toNat < s.wp.toNat + 2) ∧
    (let s := withBytes 6#16 encodedAbc; Room s 1 ∧ ¬8 ≤ s.pstk.length ∧ s.cap.toNat < s.wp.toNat + 2) ∧
    (let s := { withBytes 266#16 (List.replicate 8 0#8) with pstk := fullStack.tail };
      s.pstk.length < 8 ∧ 255 < (List.replicate 256 0#8 : List Byte).length ∧
      Room s (2 + (List.replicate 256 0#8 : List Byte).length)) ∧
    (let s := withBytes 7#16 encodedAbc; Room s 2 ∧ s.cap.toNat < s.wp.toNat + 2 + [0#8].length) := by decide +kernel
theorem witness_WirePatternsAppendTheirBytes :
    (let s := withBytes 8#16 [];
      s.nb = 0#3 ∧ ¬s.cap.toNat < s.wp.toNat + (encode (.wireSectionHeader 0#8 0#12 0#16 0#5)).length ∧
      s.cap.toNat ≤ Config.bufSize) ∧
    (let s := withBytes 7#16 [];
      s.cap.toNat < s.wp.toNat + (encode (.wireSectionHeader 0#8 0#12 0#16 0#5)).length) := by decide
theorem witness_ErrorsLeaveTheStateBefore :
    Instr.format (.asmPut8 1#8) = .cmd ∧ exec (.asmPut8 1#8) State.reset = .next (State.reset.answered 3#3 1#32 []) ∧
    (State.reset.answered 3#3 1#32 []).status ≠ 0#3 := ⟨rfl, rfl, by decide⟩

/-- The invariant in a state with bytes, an open field, pending bits, a section and packets. -/
theorem witness_Inv_open :
    Inv { withBytes 64#16 encodedAbc with
          valid := true, descs := [⟨0x40#8, []⟩], ents := [⟨1#16, 2#16, [⟨0x90#8, [7#8]⟩]⟩]
          pstk := [⟨3#16, .w12⟩, ⟨1#16, .w8⟩], nb := 7#3, bv := 0x7F#7, status := 6#3
          obuf := onePacket.obuf, olen := 188#16, port := [.frame [0x18#8], .reset] } where
  bufCells := by decide
  wpLeCap := by decide
  capLeSize := by decide
  depth := by decide
  pstkRising := by decide
  pstkWritten := by decide
  bacc := by decide
  obufCells := by decide +kernel
  olenLeSize := by decide
  olenPackets := by decide
  statusKnown := by decide
  descsAdmitted := by decide
  entsAdmitted := by decide
  encClosed := by decide
  encBounds := by decide
  encCurrent := by decide

/-- The invariant with a current encoding, and a step from there. -/
theorem witness_Inv_encoded : Inv { encodedSection with port := [.frame [0x51#8, 0x00#8, 0xBC#8]] } where
  bufCells := by decide +kernel
  wpLeCap := by decide +kernel
  capLeSize := by decide +kernel
  depth := by decide +kernel
  pstkRising := by decide +kernel
  pstkWritten := by decide +kernel
  bacc := by decide +kernel
  obufCells := by decide +kernel
  olenLeSize := by decide +kernel
  olenPackets := by decide +kernel
  statusKnown := by decide +kernel
  descsAdmitted := by decide +kernel
  entsAdmitted := by decide +kernel
  encClosed := by decide +kernel
  encBounds := by decide +kernel
  encCurrent := by decide +kernel

/-- The step of the state above: PKT.ENC 188 succeeds. -/
theorem witness_InvariantIsKeptByEveryStep :
    answers (step { encodedSection with port := [.frame [0x51#8, 0x00#8, 0xBC#8]] })
      (fun t => t.status == 0#3 && t.olen == 188#16) = true := by decide +kernel
/-- ASM.PATCH closes a field of a state that keeps the invariant: the hypotheses about `exec i s = .next t` (of
CommandsRaiseOnlyTheirErrors, CommandsTouchOnlyTheirState, EncValidFollowsTheCommands, ResponseCarriesStatusAndResult
and BufIsAppendOnly) at a command that succeeds, with one that fails in the same state. -/
theorem witness_exec_next :
    let s := { withBytes 64#16 encodedAbc with pstk := [⟨1#16, .w8⟩] }
    answers (exec .asmPatch s) (fun t => t.status == 0#3) = true ∧
    answers (exec (.secEnc 16#16) s) (fun t => t.status == 6#3) = true ∧ Instr.format .asmPatch = .cmd := by decide
theorem witness_BufIsAppendOnly :
    Inv { withBytes 64#16 encodedAbc with pstk := [⟨1#16, .w8⟩] } ∧
    (0 < (1#16 : Half).toNat ∨ (1#16 : Half).toNat + fsize .w8 ≤ 0) ∧
    (2 < (1#16 : Half).toNat ∨ (1#16 : Half).toNat + fsize .w8 ≤ 2) :=
  ⟨by constructor <;> decide, by decide⟩
/-- Canonical memories with holes, which no run reaches, and a step. -/
theorem witness_MemoriesStayCanonical :
    let s := { State.reset with buf := [(3, 1#8), (9, 2#8)], obuf := [(0, 1#8)], port := [.frame [0x10#8, 0#8, 8#8]] }
    Memory.wf s.buf ∧ Memory.wf s.obuf ∧ ∃ t : State, step s = .next t :=
  ⟨by decide, by decide, _, rfl⟩
theorem witness_StepRunsTheOldestItem :
    State.reset.port = [] ∧
    ({ State.reset with port := [.frame [0x34#8], .reset] } : State).port = .frame [0x34#8] :: [.reset] ∧
    decodeFrame [0x34#8] = .ok .secSize := ⟨rfl, rfl, rfl⟩
/-- A reserved opcode on either side of the map's ranges; a wrong and a right length, with a count. -/
theorem witness_FramesAreToldApart :
    0x00#8 ∉ opcodes ∧ 0x52#8 ∉ opcodes ∧ 0x51#8 ∈ opcodes ∧ frameLengthOk 0x51#8 [0#8] = false ∧
    frameLengthOk 0x14#8 [0#8, 2#8, 1#8] = false ∧ frameLengthOk 0x14#8 [0#8, 1#8, 1#8] = true := by decide
theorem witness_DecodeOfEncodeIsTheInstruction :
    Instr.wellFormed (.asmPutf 32#8 0xFFFFFFFF#32) = true ∧
    Instr.wellFormed (.packLinkage ⟨1#16, 2#16, 3#16, 8#8, .handOver ⟨3#4, 0#1, some 1#16, some 2#16⟩, []⟩) = true ∧
    Instr.wellFormed .wirePointerField = true := by decide
theorem witness_PackedValuesPassTheirCheck :
    Instr.wellFormed (.packServiceList [⟨0x0065#16, 1#8⟩]) = true ∧
    packed (.packServiceList [⟨0x0065#16, 1#8⟩]) = some (0x41#8, [0x00#8, 0x65#8, 0x01#8]) := by decide
theorem witness_NoBitOfAFrameOrPatternIsIgnored :
    Format.wireTsHeader ≠ .tlv ∧ decode .wireTsHeader [0x47#8, 0x5F#8, 0xFF#8, 0x10#8] =
      .ok (.wireTsHeader 1#1 0x1FFF#13) ∧ decode .cmd [0x34#8] = .ok .secSize := ⟨by decide, rfl, rfl⟩

end Sys2Proof.Tests
end

section
/-! PROOFS. The state after reset (spec 10_state.md R36). -/

namespace Sys2Proof.Machine

/-- A memory without cells is unwritten everywhere. -/
@[simp] theorem read_nil (k : Nat) : Memory.read [] k = none := rfl

/-- Settles O49, field by field in the order of R36's table: a register, list or stack by its value in `State.reset`,
BUF and OBUF because both start as a memory without cells. -/
theorem resetStateIsEmpty : Obligations.ResetStateIsEmpty :=
  have bufUnwritten : ∀ k : Nat, Memory.read State.reset.buf k = none := read_nil
  have obufUnwritten : ∀ k : Nat, Memory.read State.reset.obuf k = none := read_nil
  ⟨rfl, rfl, rfl, rfl, rfl, rfl, rfl, bufUnwritten, rfl, rfl, rfl, rfl, rfl, rfl, rfl,
    obufUnwritten, rfl, rfl, rfl⟩

end Sys2Proof.Machine
end

section
/-! PROOFS. Where a command writes in BUF (spec 20_memory.md R51): what each operation of the assembly unit does to BUF,
WP and PSTK, and that every command but ASM.PATCH closes only the fields it has reserved itself. -/

namespace Sys2Proof.Machine

/-! ### What a command's work ensures when it succeeds -/

/-- Every result that `r` can give satisfies `P`; nothing is said of an error. -/
def Ensures {α : Type} (P : α → Prop) (r : Except Stop α) : Prop := ∀ a : α, r = .ok a → P a

section
variable {α β : Type} {P : α → Prop} {Q : β → Prop}

theorem Ensures.ok {a : α} (ha : P a) : Ensures P (.ok a) := by
  rintro b ⟨⟩
  exact ha

theorem Ensures.error (e : Stop) : Ensures P (.error e) := by
  rintro b ⟨⟩

theorem Ensures.bind {x : Except Stop α} {f : α → Except Stop β} (hx : Ensures P x)
    (hf : ∀ a, P a → Ensures Q (f a)) : Ensures Q (x >>= f) := by
  cases x with
  | error e => exact .error e
  | ok a => exact hf a (hx a rfl)

/-- A check or a read changes no state, so what it answers need not be known. -/
theorem Ensures.after {x : Except Stop α} {f : α → Except Stop β} (hf : ∀ a, Ensures Q (f a)) :
    Ensures Q (x >>= f) :=
  Ensures.bind (P := fun _ => True) (fun _ _ => trivial) fun a _ => hf a

end

/-- A command ends with OK on a state that its work ensures, or with an error on the state before it (R277). -/
theorem finish_next_ensures {P : State → Prop} {s t : State} {r : Except Stop Done}
    (hr : Ensures (fun x => P x.state) r) (hx : finish s r = .next t) :
    (∃ x : Done, P x.state ∧ t = complete x.value x.data x.state) ∨ ∃ e, t = raiseErr e s := by
  obtain ⟨x, hok, ht⟩ | ⟨e, -, ht⟩ := (finish_next_iff s t r).1 hx
  · exact .inl ⟨x, hr x hok, ht⟩
  · exact .inr ⟨e, ht⟩

/-! ### BUF, WP and PSTK fit together, and how they grow -/

/-- A cell that no entry of the list names is unwritten. -/
theorem read_eq_none_of_writtenUpTo {m : Memory} {n k : Nat} (hm : WrittenUpTo m n) (hk : n ≤ k) :
    Memory.read m k = none := by
  refine List.lookup_eq_none_iff.mpr fun c hc => ?_
  have hmem : c.1 ∈ List.range n := hm ▸ List.mem_map_of_mem hc
  have hlt : c.1 < n := List.mem_range.mp hmem
  simpa using show k ≠ c.1 by omega

/-- BUF is unwritten from WP up, WP is within CAP, and every open field lies below WP (R26, R27). -/
structure Tidy (t : State) : Prop where
  blank : ∀ k : Nat, t.wp.toNat ≤ k → Memory.read t.buf k = none
  wpLeCap : t.wp.toNat ≤ t.cap.toNat
  fieldsBelow : ∀ e ∈ t.pstk, e.off.toNat + fsize e.kind ≤ t.wp.toNat

theorem Inv.tidy {s : State} (hs : Inv s) : Tidy s where
  blank _ := read_eq_none_of_writtenUpTo hs.bufCells
  wpLeCap := hs.wpLeCap
  fieldsBelow := hs.pstkWritten

theorem tidy_asmClear (cap : Half) (s : State) : Tidy (asmClear cap s) where
  blank k _ := read_nil k
  wpLeCap := Nat.zero_le _
  fieldsBelow _ he := nomatch he

/-- In a tidy state nothing is written from WP or from CAP up. -/
theorem Tidy.unwritten {t : State} (ht : Tidy t) {k : Nat} (hk : t.wp.toNat ≤ k ∨ t.cap.toNat ≤ k) :
    Memory.read t.buf k = none :=
  ht.blank k (hk.elim id ht.wpLeCap.trans)

/-- `t` has grown out of `s` by writes at or above the WP of `s` alone, and the `d` topmost open fields of `t` were
reserved on the way, so that closing one of them writes no cell of `s` either. -/
structure Grown (s : State) (d : Nat) (t : State) : Prop where
  tidy : Tidy t
  wpLe : s.wp.toNat ≤ t.wp.toNat
  kept : ∀ k : Nat, k < s.wp.toNat → Memory.read t.buf k = Memory.read s.buf k
  own : ∀ e ∈ t.pstk.take d, s.wp.toNat ≤ e.off.toNat

/-- Both states have the same BUF, WP, CAP and PSTK. -/
structure SameBuf (s t : State) : Prop where
  buf : t.buf = s.buf
  wp : t.wp = s.wp
  cap : t.cap = s.cap
  pstk : t.pstk = s.pstk

theorem SameBuf.refl (s : State) : SameBuf s s := ⟨rfl, rfl, rfl, rfl⟩

theorem sameBuf_complete (v : Nat) (data : List Byte) (s : State) : SameBuf s (complete v data s) :=
  ⟨rfl, rfl, rfl, rfl⟩

theorem sameBuf_raiseErr (e : Err) (s : State) : SameBuf s (raiseErr e s) := ⟨rfl, rfl, rfl, rfl⟩

theorem Tidy.of_sameBuf {s t : State} (hs : Tidy s) (h : SameBuf s t) : Tidy t where
  blank := by simpa only [h.buf, h.wp] using hs.blank
  wpLeCap := by simpa only [h.cap, h.wp] using hs.wpLeCap
  fieldsBelow := by simpa only [h.pstk, h.wp] using hs.fieldsBelow

section
variable {s t u : State} {d : Nat}

theorem Grown.refl (hs : Tidy s) : Grown s 0 s where
  tidy := hs
  wpLe := Nat.le_refl _
  kept _ _ := rfl
  own := by simp

theorem Grown.of_sameBuf (h : Grown s d t) (hu : SameBuf t u) : Grown s d u where
  tidy := h.tidy.of_sameBuf hu
  wpLe := by simpa only [hu.wp] using h.wpLe
  kept := by simpa only [hu.buf] using h.kept
  own := by simpa only [hu.pstk] using h.own

/-- Which fields are one's own may be forgotten. -/
theorem Grown.forget (h : Grown s d t) : Grown s 0 t := { h with own := by simp }

end

/-! ### Storing at WP: append, reserve and the bit packer -/

/-- `bs` is stored at WP, and WP is moved past it, within CAP: what an append does (R100), PSTK apart. -/
structure AppendedAt (s : State) (bs : List Byte) (t : State) : Prop where
  stored : Stored s.buf t.buf s.wp.toNat bs
  wp : t.wp.toNat = s.wp.toNat + bs.length
  wpLeCap : t.wp.toNat ≤ t.cap.toNat

theorem appendedAt_appended {bs : List Byte} {s : State} (fits : s.wp.toNat + bs.length ≤ s.cap.toNat) :
    AppendedAt s bs (appended bs s) where
  stored := appended_stored bs s
  wp := appended_wp_toNat fits
  wpLeCap := by
    rw [appended_wp_toNat fits]
    exact fits

/-- R106: the bit packer appends the bytes that are complete. -/
theorem appendedAt_packedField {w : Nat} (v : Word) {s : State}
    (fits : s.wp.toNat + (s.nb.toNat + w) / 8 ≤ s.cap.toNat) :
    AppendedAt s (beBytes ((s.nb.toNat + w) / 8) (packAcc w v s / 2 ^ ((s.nb.toNat + w) % 8)))
      (packedField w v s) := by
  have hwp : (packedField w v s).wp.toNat = s.wp.toNat + (s.nb.toNat + w) / 8 :=
    Nat.mod_eq_of_lt (fits.trans_lt s.cap.isLt)
  exact ⟨appended_stored _ s, by rw [hwp, length_beBytes], by rw [hwp]; exact fits⟩

section
variable {s₀ s t : State} {d d' : Nat}

/-- An append keeps what is below WP, whatever it does to the stack, as long as the open fields are in place. -/
theorem AppendedAt.grown {bs : List Byte} (h : AppendedAt s bs t) (hs : Grown s₀ d s)
    (fieldsBelow : ∀ e ∈ t.pstk, e.off.toNat + fsize e.kind ≤ t.wp.toNat)
    (own : ∀ e ∈ t.pstk.take d', s₀.wp.toNat ≤ e.off.toNat) : Grown s₀ d' t := by
  have hwp := h.wp
  have hwpLe := hs.wpLe
  obtain ⟨-, outside⟩ := h.stored
  refine ⟨⟨fun k hk => ?_, h.wpLeCap, fieldsBelow⟩, by omega, fun k hk => ?_, own⟩
  · rw [outside k (.inr (by omega))]
    exact hs.tidy.blank k (by omega)
  · rw [outside k (.inl (by omega))]
    exact hs.kept k hk

theorem AppendedAt.grown_of_pstk_eq {bs : List Byte} (h : AppendedAt s bs t) (hs : Grown s₀ d s)
    (hpstk : t.pstk = s.pstk) : Grown s₀ d t := by
  refine h.grown hs ?_ (by simpa only [hpstk] using hs.own)
  rw [hpstk, h.wp]
  exact fun e he => Nat.le_add_right_of_le (hs.tidy.fieldsBelow e he)

theorem appendBytes_grown (bs : List Byte) (hs : Grown s₀ d s) : Ensures (Grown s₀ d) (appendBytes bs s) := by
  intro t ht
  obtain ⟨-, fits, -, rfl⟩ := appendBytes_ok ht
  exact (appendedAt_appended fits).grown_of_pstk_eq hs rfl

theorem appendDone_grown (bs : List Byte) (hs : Grown s₀ d s) :
    Ensures (fun x => Grown s₀ d x.state) (appendDone bs s) :=
  (appendBytes_grown bs hs).bind fun _ ht => .ok ht

/-- R106: ASM.PUTF leaves the stack alone. -/
theorem putField_grown (w : Nat) (v : Word) (hs : Grown s₀ d s) : Ensures (Grown s₀ d) (putField w v s) := by
  rw [putField_eq]
  split
  next fits =>
    split
    next => exact .ok ((appendedAt_packedField v fits).grown_of_pstk_eq hs rfl)
    next => exact .error _
  next => exact .error _

/-- A field that a command reserves is its own: it starts at a WP that has not fallen. -/
theorem reserve_grown {kind : FieldKind} {bs : List Byte} (hlen : bs.length = fsize kind)
    (hs : Grown s₀ d s) : Ensures (Grown s₀ (d + 1)) (reserve kind bs s) := by
  intro t ht
  obtain ⟨-, -, fits, -, rfl⟩ := reserve_ok ht
  have happ := appendedAt_appended fits
  have hres : AppendedAt s bs (reserved kind bs s) := ⟨happ.stored, happ.wp, happ.wpLeCap⟩
  have hpstk : (reserved kind bs s).pstk = ⟨s.wp, kind⟩ :: s.pstk := rfl
  refine hres.grown hs ?_ ?_
  · rw [hpstk, hres.wp, hlen, List.forall_mem_cons]
    exact ⟨Nat.le_refl _, fun e he => Nat.le_add_right_of_le (hs.tidy.fieldsBelow e he)⟩
  · rw [hpstk, List.take_succ_cons, List.forall_mem_cons]
    exact ⟨hs.wpLe, hs.own⟩

theorem reserve8_grown (hs : Grown s₀ d s) : Ensures (Grown s₀ (d + 1)) (reserve8 s) :=
  reserve_grown rfl hs

theorem reserve12_grown (hi : BitVec 4) (hs : Grown s₀ d s) : Ensures (Grown s₀ (d + 1)) (reserve12 hi s) :=
  reserve_grown rfl hs

end

/-! ### Closing a field -/

/-- The top field `e` of `s` is filled and popped, and WP stays: the effect of ASM.PATCH (R110) on BUF, WP and PSTK. -/
structure PatchedAt (s : State) (e : PatchEntry) (t : State) : Prop where
  top : s.pstk = e :: t.pstk
  wp : t.wp = s.wp
  cap : t.cap = s.cap
  outside : ∀ k : Nat, k < e.off.toNat ∨ e.off.toNat + fsize e.kind ≤ k →
    Memory.read t.buf k = Memory.read s.buf k

theorem patchedAt_write {s : State} {e : PatchEntry} {rest : List PatchEntry} {bs : List Byte}
    (top : s.pstk = e :: rest) (hlen : bs.length = fsize e.kind) :
    PatchedAt s e { s with buf := Memory.write s.buf e.off.toNat bs, pstk := rest, encValid := false } where
  top := top
  wp := rfl
  cap := rfl
  outside k hk := read_write_other _ _ _ k (by rwa [hlen])

theorem patchTop_patchedAt (s : State) : Ensures (fun r => ∃ e, PatchedAt s e r.1) (patchTop s) := by
  intro r hr
  obtain ⟨-, e, rest, top, -, ⟨hkind, -, hstate⟩ | ⟨hkind, -, b0, -, hstate⟩⟩ := patchTop_ok hr
  · exact ⟨e, hstate ▸ patchedAt_write top (by rw [hkind]; rfl)⟩
  · exact ⟨e, hstate ▸ patchedAt_write top (by rw [hkind]; rfl)⟩

section
variable {s₀ s t : State} {e : PatchEntry} {d : Nat}

theorem PatchedAt.tidy (h : PatchedAt s e t) (hs : Tidy s) : Tidy t where
  blank k hk := by
    have below := hs.fieldsBelow e (by simp [h.top])
    rw [h.wp] at hk
    rw [h.outside k (.inr (Nat.le_trans below hk))]
    exact hs.blank k hk
  wpLeCap := by
    rw [h.wp, h.cap]
    exact hs.wpLeCap
  fieldsBelow f hf := by
    rw [h.wp]
    exact hs.fieldsBelow f (by simp [h.top, hf])

/-- Closing a field of one's own leaves the cells of the first state alone. -/
theorem PatchedAt.grown (h : PatchedAt s e t) (hs : Grown s₀ (d + 1) s) : Grown s₀ d t where
  tidy := h.tidy hs.tidy
  wpLe := by simpa only [h.wp] using hs.wpLe
  kept k hk := by
    have ownTop : s₀.wp.toNat ≤ e.off.toNat := hs.own e (by simp [h.top])
    rw [h.outside k (.inl (by omega))]
    exact hs.kept k hk
  own f hf := hs.own f (by simp [h.top, hf])

theorem patchTop_grown (hs : Grown s₀ (d + 1) s) : Ensures (fun r => Grown s₀ d r.1) (patchTop s) := by
  intro r hr
  obtain ⟨e, hpatch⟩ := patchTop_patchedAt s r hr
  exact hpatch.grown hs

end

/-! ### Descriptors and sections -/

section
variable {s₀ s : State} {d : Nat}

theorem encDescriptor_grown (x : Descriptor) (hs : Grown s₀ d s) :
    Ensures (Grown s₀ d) (encDescriptor x s) :=
  (appendBytes_grown [x.tag] hs).bind fun _ hTag =>
  (reserve8_grown hTag).bind fun _ hRsv =>
  (appendBytes_grown x.payload hRsv).bind fun _ hPayload =>
  (patchTop_grown hPayload).bind fun _ hPatch => .ok hPatch

theorem encDescriptors_grown (xs : List Descriptor) (hs : Grown s₀ d s) :
    Ensures (Grown s₀ d) (encDescriptors xs s) := by
  induction xs generalizing s with
  | nil => exact .ok hs
  | cons x xs ih => exact (encDescriptor_grown x hs).bind fun _ hx => ih hx

theorem encEntity_grown (edl : Bool) (e : Entity) (hs : Grown s₀ d s) :
    Ensures (Grown s₀ d) (encEntity edl e s) := by
  refine (appendBytes_grown _ hs).bind fun _ hHeader => ?_
  cases edl with
  | false => exact encDescriptors_grown _ hHeader
  | true =>
    exact (reserve12_grown _ hHeader).bind fun _ hRsv =>
      (encDescriptors_grown _ hRsv).bind fun _ hDescs =>
      (patchTop_grown hDescs).bind fun _ hPatch => .ok hPatch

theorem encEntities_grown (edl : Bool) (es : List Entity) (hs : Grown s₀ d s) :
    Ensures (Grown s₀ d) (encEntities edl es s) := by
  induction es generalizing s with
  | nil => exact .ok hs
  | cons e es ih => exact (encEntity_grown edl e hs).bind fun _ he => ih he

/-- R206: a section is assembled on an empty BUF, and every field it closes it has reserved. -/
theorem encSection_tidy (edl : Bool) (cap : Half) (n : Nat) (s : State) :
    Ensures Tidy (encSection edl cap n s) :=
  (appendBytes_grown _ (Grown.refl (tidy_asmClear cap s))).bind fun _ hHeader =>
  (reserve12_grown _ hHeader).bind fun _ hRsv =>
  (encDescriptors_grown _ hRsv).bind fun _ hDescs =>
  (patchTop_grown hDescs).bind fun _ hPatch =>
  (reserve12_grown _ hPatch).bind fun _ hRsv' =>
  (encEntities_grown edl _ hRsv').bind fun _ hEnts =>
  (patchTop_grown hEnts).bind fun _ hPatch' =>
  .after fun _ => (appendBytes_grown _ hPatch').bind fun _ hCrc =>
  .ok (hCrc.tidy.of_sameBuf ⟨rfl, rfl, rfl, rfl⟩)

end

/-! ### Commands -/

/-- A command that ends with an error has changed nothing of BUF, and one that ends with OK what its work did. -/
theorem finish_grown {s₀ s t : State} {d d' : Nat} {r : Except Stop Done} (hs : Grown s₀ d s)
    (hr : Ensures (fun x => Grown s₀ d' x.state) r) (hx : finish s r = .next t) :
    Grown s₀ 0 t ∧ (t.status = 0#3 → Grown s₀ d' t) := by
  obtain ⟨x, hwork, rfl⟩ | ⟨e, rfl⟩ := finish_next_ensures hr hx
  · have hdone := hwork.of_sameBuf (sameBuf_complete x.value x.data x.state)
    exact ⟨hdone.forget, fun _ => hdone⟩
  · exact ⟨(hs.of_sameBuf (sameBuf_raiseErr e s)).forget, fun h => absurd h (statusCode_ne_zero e)⟩

/-- A command whose work keeps what is below WP keeps it. -/
theorem finish_grown_of_tidy {s t : State} {r : Except Stop Done} (hs : Tidy s)
    (hr : Ensures (fun x => Grown s 0 x.state) r) (hx : finish s r = .next t) : Grown s 0 t :=
  (finish_grown (Grown.refl hs) hr hx).1

theorem finish_grown_of_sameBuf {s t : State} {r : Except Stop Done} (hs : Tidy s)
    (hr : Ensures (fun x => SameBuf s x.state) r) (hx : finish s r = .next t) : Grown s 0 t :=
  finish_grown_of_tidy hs (fun x hok => (Grown.refl hs).of_sameBuf (hr x hok)) hx

theorem execCsrRd_grown {n : Byte} {s t : State} (hs : Tidy s) (hx : execCsrRd n s = .next t) : Grown s 0 t := by
  refine finish_grown_of_sameBuf hs (.after fun _ => ?_) hx
  split
  next => exact .ok (.refl s)
  next => exact .error _

theorem execEntAddd_grown {h : Half} {tag : Byte} {p : List Byte} {s t : State} (hs : Tidy s)
    (hx : execEntAddd h tag p s = .next t) : Grown s 0 t := by
  refine finish_grown_of_sameBuf hs (.after fun _ => ?_) hx
  split
  next => exact .error _
  next => exact .after fun _ => .ok ⟨rfl, rfl, rfl, rfl⟩

/-- OBUF is another memory than BUF. -/
theorem obufFill_sameBuf (bs : List Byte) (s : State) : Ensures (SameBuf s) (obufFill bs s) := by
  intro t ht
  obtain ⟨-, rfl⟩ := (obufFill_ok_iff bs s t).1 ht
  exact ⟨rfl, rfl, rfl, rfl⟩

theorem execPktEnc_grown {cap : Half} {s t : State} (hs : Tidy s) (hx : execPktEnc cap s = .next t) :
    Grown s 0 t :=
  finish_grown_of_sameBuf hs
    (.after fun _ => .after fun _ => .after fun _ => .after fun _ =>
      (obufFill_sameBuf _ s).bind fun _ ht => .ok ht) hx

theorem execDescEnc_grown {tag : Byte} {p : List Byte} {s t : State} (hs : Tidy s)
    (hx : execDescEnc tag p s = .next t) : Grown s 0 t :=
  finish_grown_of_tidy hs
    (.after fun _ => .after fun _ => .after fun x => .after fun _ =>
      (encDescriptor_grown x (.refl hs)).bind fun _ ht => .ok ht) hx

theorem execAsmPutf_grown {s₀ s t : State} {d : Nat} {w : Byte} {v : Word} (hs : Grown s₀ d s)
    (hx : execAsmPutf w v s = .next t) : Grown s₀ 0 t ∧ (t.status = 0#3 → Grown s₀ d t) :=
  finish_grown hs (.after fun _ => (putField_grown _ v hs).bind fun _ ht => .ok ht) hx

theorem execAsmRsv8_grown {s₀ s t : State} {d : Nat} (hs : Grown s₀ d s) (hx : execAsmRsv8 s = .next t) :
    Grown s₀ 0 t ∧ (t.status = 0#3 → Grown s₀ (d + 1) t) :=
  finish_grown hs ((reserve8_grown hs).bind fun _ ht => .ok ht) hx

theorem execAsmRsv12_grown {hi : Byte} {s t : State} (hs : Tidy s) (hx : execAsmRsv12 hi s = .next t) :
    Grown s 0 t :=
  (finish_grown (.refl hs)
    (.after fun _ => (reserve12_grown _ (.refl hs)).bind fun _ ht => .ok ht) hx).1

/-- ASM.PATCH of a field that was reserved on the way. -/
theorem execAsmPatch_grown {s₀ s t : State} {d : Nat} (hs : Grown s₀ (d + 1) s) (hx : execAsmPatch s = .next t) :
    Grown s₀ 0 t ∧ (t.status = 0#3 → Grown s₀ d t) :=
  finish_grown hs ((patchTop_grown hs).bind fun _ ht => .ok ht) hx

/-- WP stays, and no cell changes but those of the field on top of the stack of `s`. -/
structure PatchFrame (s t : State) : Prop where
  tidy : Tidy t
  wp : t.wp = s.wp
  kept : ∀ k : Nat, (∀ e ∈ s.pstk.head?, k < e.off.toNat ∨ e.off.toNat + fsize e.kind ≤ k) →
    Memory.read t.buf k = Memory.read s.buf k

/-- ASM.PATCH by itself (R51, R110), whether it succeeds or not. -/
theorem execAsmPatch_frame {s t : State} (hs : Tidy s) (hx : execAsmPatch s = .next t) : PatchFrame s t := by
  obtain ⟨x, ⟨e, hpatch⟩, rfl⟩ | ⟨e, rfl⟩ := finish_next_ensures (P := fun u => ∃ e, PatchedAt s e u)
    ((patchTop_patchedAt s).bind fun _ hu => .ok hu) hx
  · exact ⟨(hpatch.tidy hs).of_sameBuf (sameBuf_complete x.value x.data x.state), hpatch.wp,
      fun k hk => hpatch.outside k (hk e (by simp [hpatch.top]))⟩
  · exact ⟨hs.of_sameBuf (sameBuf_raiseErr e s), rfl, fun _ _ => rfl⟩

/-- A command that starts BUF anew either does so and ends with OK, or changes nothing of BUF. -/
theorem finish_restart {s t : State} {r : Except Stop Done} (hs : Tidy s)
    (hr : Ensures (fun x => Tidy x.state) r) (hx : finish s r = .next t) :
    (t.status = 0#3 ∧ Tidy t) ∨ Grown s 0 t := by
  obtain ⟨x, hwork, rfl⟩ | ⟨e, rfl⟩ := finish_next_ensures hr hx
  · exact .inl ⟨rfl, hwork.of_sameBuf (sameBuf_complete x.value x.data x.state)⟩
  · exact .inr ((Grown.refl hs).of_sameBuf (sameBuf_raiseErr e s))

theorem execAsmReset_restart {cap : Half} {s t : State} (hs : Tidy s) (hx : execAsmReset cap s = .next t) :
    (t.status = 0#3 ∧ Tidy t) ∨ Grown s 0 t :=
  finish_restart hs (.after fun _ => .ok (tidy_asmClear cap s)) hx

theorem execSecEnc_restart {cap : Half} {s t : State} (hs : Tidy s) (hx : execSecEnc cap s = .next t) :
    (t.status = 0#3 ∧ Tidy t) ∨ Grown s 0 t :=
  finish_restart hs
    (.after fun _ => .after fun _ => .after fun _ => .after fun _ =>
      (encSection_tidy _ cap _ s).bind fun _ ht => .ok ht) hx

/-! ### Pseudo-instructions close only the fields they have reserved -/

/-- The number of fields of its own that a sequence has open after a line, if it had `d` before; `none` where the
line would close a field that the sequence has not reserved. -/
def openAfter : Line → Nat → Option Nat
  | .rsv8, d => some (d + 1)
  | .patch, 0 => none
  | .patch, d + 1 => some d
  | _, d => some d

/-- With `d` fields of its own open, the lines close no field but their own. -/
def ClosesOwn : Nat → List Line → Prop
  | _, [] => True
  | d, l :: ls => ∃ d' ∈ openAfter l d, ClosesOwn d' ls

/-- A line runs as the step of `openAfter` says, if it ends with OK. -/
theorem line_run_grown {l : Line} {s₀ s t : State} {d d' : Nat} (hl : d' ∈ openAfter l d) (hs : Grown s₀ d s)
    (hx : l.run s = .next t) : Grown s₀ 0 t ∧ (t.status = 0#3 → Grown s₀ d' t) := by
  cases l with
  | put8 | put16 | put32 | putn =>
    obtain rfl : d = d' := Option.some.inj hl
    exact finish_grown hs (appendDone_grown _ hs) hx
  | putf =>
    obtain rfl : d = d' := Option.some.inj hl
    exact execAsmPutf_grown hs hx
  | rsv8 =>
    obtain rfl : d + 1 = d' := Option.some.inj hl
    exact execAsmRsv8_grown hs hx
  | patch =>
    cases d with
    | zero => cases hl
    | succ d =>
      obtain rfl : d = d' := Option.some.inj hl
      exact execAsmPatch_grown hs hx

theorem runLines_grown {ls : List Line} {s₀ s t : State} {d : Nat} (hls : ClosesOwn d ls) (hs : Grown s₀ d s)
    (hx : runLines ls s = .next t) : Grown s₀ 0 t := by
  induction ls generalizing s d with
  | nil =>
    obtain rfl : s = t := Host.Outcome.next.inj hx
    exact hs.forget
  | cons l ls ih =>
    obtain ⟨d', hl, hrest⟩ := hls
    rw [runLines] at hx
    split at hx
    next u hu =>
      obtain ⟨hstopped, hgoes⟩ := line_run_grown hl hs hu
      split at hx
      next hok => exact ih hrest (hgoes hok) hx
      next =>
        obtain rfl : u = t := Host.Outcome.next.inj hx
        exact hstopped
    next o hne => exact absurd hx (hne t)

/-- Lines that leave as many fields open as there were, and close none but their own: what follows them is judged
as if they were not there. -/
def Balanced (ls : List Line) : Prop := ∀ (d : Nat) (rest : List Line), ClosesOwn d rest → ClosesOwn d (ls ++ rest)

/-- A line that neither reserves nor closes a field. -/
def Line.plain : Line → Bool
  | .rsv8 | .patch => false
  | _ => true

theorem openAfter_of_plain {l : Line} (hl : l.plain = true) (d : Nat) : openAfter l d = some d := by
  cases l with
  | rsv8 | patch => cases hl
  | _ => rfl

theorem Balanced.nil : Balanced [] := fun _ _ h => h

theorem Balanced.cons {l : Line} {ls : List Line} (hl : l.plain = true) (hls : Balanced ls) : Balanced (l :: ls) :=
  fun d rest h => ⟨d, openAfter_of_plain hl d, hls d rest h⟩

theorem balanced_of_plain {ls : List Line} (hls : ls.all Line.plain = true) : Balanced ls := by
  induction ls with
  | nil => exact .nil
  | cons l ls ih =>
    rw [List.all_cons, Bool.and_eq_true] at hls
    exact .cons hls.1 (ih hls.2)

theorem Balanced.append {as bs : List Line} (ha : Balanced as) (hb : Balanced bs) : Balanced (as ++ bs) := by
  intro d rest h
  rw [List.append_assoc]
  exact ha d _ (hb d rest h)

theorem Balanced.flatMap {α : Type} {f : α → List Line} (hf : ∀ x, Balanced (f x)) (xs : List α) :
    Balanced (xs.flatMap f) := by
  induction xs with
  | nil => exact .nil
  | cons x xs ih => exact (hf x).append ih

/-- A length-prefixed field closes the field it reserves. -/
theorem Balanced.lenPrefixed {body : List Line} (hb : Balanced body) : Balanced (lenPrefixed body) := by
  intro d rest h
  have inner : ClosesOwn (d + 1) (body ++ .patch :: rest) := hb (d + 1) _ ⟨d, rfl, h⟩
  exact ⟨d + 1, rfl, by simpa using inner⟩

theorem balanced_put32s (vs : List Word) : Balanced (vs.map .put32) :=
  balanced_of_plain (by simp [Line.plain])

theorem balanced_put16Opt (v : Option Half) : Balanced (put16Opt v) := by
  cases v <;> exact balanced_of_plain rfl

theorem balanced_textLines (t : List Byte) : Balanced (textLines t) :=
  Balanced.lenPrefixed (balanced_of_plain rfl)

theorem balanced_serviceListLines (es : List ServiceEntry) : Balanced (serviceListLines es) :=
  Balanced.flatMap (fun _ => balanced_of_plain rfl) es

theorem balanced_handOverLines (v : HandOver) : Balanced (handOverLines v) :=
  ((balanced_of_plain rfl).append (balanced_put16Opt _)).append (balanced_put16Opt _)

theorem balanced_targetLines (v : LinkTarget) : Balanced (targetLines v) :=
  ((((balanced_of_plain rfl).append (balanced_put16Opt _)).append (balanced_put16Opt _)).append
    (balanced_put16Opt _)).append (balanced_put16Opt _)

theorem balanced_trailerLines (v : LinkageTrailer) : Balanced (trailerLines v) := by
  cases v with
  | absent => exact balanced_of_plain rfl
  | handOver v => exact balanced_handOverLines v
  | event v => exact balanced_of_plain rfl
  | targets vs => exact Balanced.lenPrefixed (Balanced.flatMap balanced_targetLines vs)

theorem balanced_linkageLines (v : Linkage) : Balanced (linkageLines v) :=
  ((balanced_of_plain rfl).append (balanced_trailerLines _)).append (balanced_of_plain rfl)

theorem balanced_blockLines (b : LangBlock) : Balanced (blockLines b) :=
  .cons rfl (balanced_textLines _)

theorem balanced_mlComponentLines (v : MlComponent) : Balanced (mlComponentLines v) :=
  .cons rfl (Balanced.flatMap balanced_blockLines _)

theorem balanced_shortEventLines (v : ShortEvent) : Balanced (shortEventLines v) :=
  (balanced_of_plain (ls := [langLine v.lang]) rfl).append
    ((balanced_textLines _).append (balanced_textLines _))

theorem balanced_itemLines (v : EventItem) : Balanced (itemLines v) :=
  (balanced_textLines _).append (balanced_textLines _)

theorem balanced_extendedEventLines (v : ExtendedEvent) : Balanced (extendedEventLines v) :=
  ((balanced_of_plain rfl).append (Balanced.lenPrefixed (Balanced.flatMap balanced_itemLines _))).append
    (balanced_textLines _)

theorem balanced_frequencyListLines (v : FrequencyList) : Balanced (frequencyListLines v) :=
  (balanced_of_plain rfl).append (balanced_put32s _)

theorem balanced_dataBroadcastLines (v : DataBroadcast) : Balanced (dataBroadcastLines v) :=
  (((balanced_of_plain rfl).append (balanced_textLines _)).append (balanced_of_plain rfl)).append
    (balanced_textLines _)

theorem balanced_cellLines (tfs : BitVec 1) (c : T2Cell) : Balanced (cellLines tfs c) := by
  have frequencies : Balanced
      (if tfs = 1#1 then lenPrefixed (c.frequencies.map .put32) else c.frequencies.map .put32) := by
    split
    next => exact Balanced.lenPrefixed (balanced_put32s _)
    next => exact balanced_put32s _
  have subcells : Balanced (c.subcells.flatMap subcellLines) :=
    Balanced.flatMap (fun _ => balanced_of_plain rfl) _
  exact ((balanced_of_plain rfl).append frequencies).append subcells.lenPrefixed

theorem balanced_t2BodyLines (v : T2Delivery) : Balanced (t2BodyLines v) := by
  unfold t2BodyLines
  refine (balanced_of_plain rfl).append ?_
  split
  next => exact balanced_of_plain rfl
  next l => exact (balanced_of_plain rfl).append (Balanced.flatMap (balanced_cellLines _) _)

theorem balanced_extensionLines (x : Byte) (body : List Byte) : Balanced (extensionLines x body) := by
  unfold extensionLines
  refine .cons rfl ?_
  split
  next =>
    split
    next v _ => exact balanced_t2BodyLines v
    next => exact balanced_of_plain rfl
  next => exact balanced_of_plain rfl

/-- A PACK pseudo-instruction with a balanced body writes at or above the WP it starts from alone (R96). -/
theorem runLines_packLines_grown {tag : Byte} {body : List Line} {s t : State} (hbody : Balanced body)
    (hs : Tidy s) (hx : runLines (packLines tag body) s = .next t) : Grown s 0 t := by
  have hlines := Balanced.cons (l := .put8 tag) rfl hbody.lenPrefixed 0 [] trivial
  rw [List.append_nil] at hlines
  exact runLines_grown hlines (.refl hs) hx

/-! ### Every instruction -/

/-- R51 for every instruction but ASM.PATCH and the two that reset WP: it writes at or above the old WP alone. -/
theorem exec_grown {i : Instr} {s t : State} (hs : Tidy s) (hx : exec i s = .next t) (hpatch : i ≠ .asmPatch)
    (hreset : ∀ cap, i ≠ .asmReset cap ∧ i ≠ .secEnc cap) : Grown s 0 t := by
  cases i with
  | asmPatch => exact absurd rfl hpatch
  | asmReset cap => exact absurd rfl (hreset cap).1
  | secEnc cap => exact absurd rfl (hreset cap).2
  | csrRd => exact execCsrRd_grown hs hx
  | secSize | pktSize | secInit | secAdde =>
    exact finish_grown_of_sameBuf hs (.after fun _ => .ok ⟨rfl, rfl, rfl, rfl⟩) hx
  | descSize => exact finish_grown_of_sameBuf hs (.after fun _ => .ok (.refl s)) hx
  | bufRd | obufRd | descDec | secAddd =>
    exact finish_grown_of_sameBuf hs (.after fun _ => .after fun _ => .ok ⟨rfl, rfl, rfl, rfl⟩) hx
  | crcCalc =>
    exact finish_grown_of_sameBuf hs (.after fun _ => .after fun _ => .after fun _ => .ok (.refl s)) hx
  | entAddd => exact execEntAddd_grown hs hx
  | pktEnc => exact execPktEnc_grown hs hx
  | descEnc => exact execDescEnc_grown hs hx
  | asmPut8 | asmPut16 | asmPut32 | asmPutn | wireDescriptor | wireLengthWord | wireSectionHeader
  | wireEntityHeader | wireCrcTrailer | wireTsHeader | wirePointerField =>
    exact finish_grown_of_tidy hs (appendDone_grown _ (.refl hs)) hx
  | asmPutf => exact (execAsmPutf_grown (.refl hs) hx).1
  | asmRsv8 => exact (execAsmRsv8_grown (.refl hs) hx).1
  | asmRsv12 => exact execAsmRsv12_grown hs hx
  | packNetworkName | packSatDelivery | packCableDelivery | packTerrDelivery | packPrivateDataSpec | packOpaque =>
    exact runLines_packLines_grown (balanced_of_plain rfl) hs hx
  | packServiceList => exact runLines_packLines_grown (balanced_serviceListLines _) hs hx
  | packLinkage => exact runLines_packLines_grown (balanced_linkageLines _) hs hx
  | packShortEvent => exact runLines_packLines_grown (balanced_shortEventLines _) hs hx
  | packExtendedEvent => exact runLines_packLines_grown (balanced_extendedEventLines _) hs hx
  | packMlNetworkName => exact runLines_packLines_grown (Balanced.flatMap balanced_blockLines _) hs hx
  | packMlComponent => exact runLines_packLines_grown (balanced_mlComponentLines _) hs hx
  | packFrequencyList => exact runLines_packLines_grown (balanced_frequencyListLines _) hs hx
  | packDataBroadcast => exact runLines_packLines_grown (balanced_dataBroadcastLines _) hs hx
  | packExtension => exact runLines_packLines_grown (balanced_extensionLines _ _) hs hx
  | packExtensionT2 v =>
    exact runLines_packLines_grown
      (.cons rfl (balanced_t2BodyLines v)) hs hx

/-- What an instruction does to BUF: ASM.PATCH writes the top field alone, a successful ASM.RESET or SEC.ENC starts BUF
anew, and everything else writes at or above the old WP alone. -/
theorem exec_buf_cases {i : Instr} {s t : State} (hs : Tidy s) (hx : exec i s = .next t) :
    (i = .asmPatch ∧ PatchFrame s t) ∨
    ((∃ cap, i = .asmReset cap ∨ i = .secEnc cap) ∧ t.status = 0#3 ∧ Tidy t) ∨
    (i ≠ .asmPatch ∧ Grown s 0 t) := by
  cases i with
  | asmPatch => exact .inl ⟨rfl, execAsmPatch_frame hs hx⟩
  | asmReset cap =>
    exact .inr ((execAsmReset_restart hs hx).imp (fun h => ⟨⟨cap, .inl rfl⟩, h⟩) fun h => ⟨nofun, h⟩)
  | secEnc cap =>
    exact .inr ((execSecEnc_restart hs hx).imp (fun h => ⟨⟨cap, .inr rfl⟩, h⟩) fun h => ⟨nofun, h⟩)
  | _ => exact .inr (.inr ⟨nofun, exec_grown hs hx nofun fun _ => ⟨nofun, nofun⟩⟩)

/-- Settles O48: from what each of the three sorts of instruction does to BUF. -/
theorem bufIsAppendOnly : Obligations.BufIsAppendOnly := by
  intro i s t hInv hx
  obtain ⟨rfl, hframe⟩ | ⟨hreset, hok, ht⟩ | ⟨hpatch, h⟩ := exec_buf_cases hInv.tidy hx
  · exact ⟨fun _ => hframe.tidy.unwritten, fun _ => hframe.wp,
      .inr ⟨by rw [hframe.wp], fun k _ hk => hframe.kept k (hk rfl)⟩⟩
  · have hpatch : i ≠ .asmPatch := by
      obtain ⟨cap, rfl | rfl⟩ := hreset <;> nofun
    exact ⟨fun _ => ht.unwritten, fun hi => absurd hi hpatch, .inl ⟨hreset, hok⟩⟩
  · exact ⟨fun _ => h.tidy.unwritten, fun hi => absurd hi hpatch, .inr ⟨h.wpLe, fun k hk _ => h.kept k hk⟩⟩

end Sys2Proof.Machine
end

section
/-! PROOFS. The bit packer (spec 40_assembly_patcher.md R106, R107): the bytes of a concatenated number, what one
ASM.PUTF answers, and that appending two fields is appending their concatenation. -/

namespace Sys2Proof.Machine

/-! ### Bytes of a number, most significant first (R53, R54) -/

theorem bigEndian_succ (k n : Nat) : bigEndian (k + 1) n = BitVec.ofNat 8 (n / 256 ^ k) :: bigEndian k n := by
  unfold bigEndian
  rw [List.range_succ_eq_map, List.map_cons, List.map_map]
  congr 1
  refine List.map_congr_left fun i _ => ?_
  rw [Function.comp_apply, show k + 1 - 1 - i.succ = k - 1 - i by omega]

/-- The statements' byte order is the machine's. -/
theorem bigEndian_eq_beBytes (k n : Nat) : bigEndian k n = beBytes k n := by
  induction k with
  | zero => rfl
  | succ k ih => rw [bigEndian_succ, ih, beBytes]

/-- What stands above the lowest `k` bytes of a number is not seen in them. -/
theorem beBytes_mul_add (k m n : Nat) : beBytes k (m * 256 ^ k + n) = beBytes k n := by
  induction k generalizing m with
  | zero => rfl
  | succ k ih =>
    have hsplit : m * 256 ^ (k + 1) = m * 256 * 256 ^ k := by ring
    have hhead : (m * 256 * 256 ^ k + n) / 256 ^ k = m * 256 + n / 256 ^ k := by
      rw [Nat.mul_comm, Nat.mul_add_div (by positivity)]
    rw [beBytes, beBytes, hsplit, hhead, ih]
    congr 1
    apply BitVec.eq_of_toNat_eq
    simp only [BitVec.toNat_ofNat]
    omega

/-- The bytes of a number are the bytes of its high part and then those of its low part. -/
theorem beBytes_add (j k m : Nat) {n : Nat} (hn : n < 256 ^ k) :
    beBytes (j + k) (m * 256 ^ k + n) = beBytes j m ++ beBytes k n := by
  induction j with
  | zero => simpa [beBytes] using beBytes_mul_add k m n
  | succ j ih =>
    have hhead : (m * 256 ^ k + n) / 256 ^ (j + k) = m / 256 ^ j := by
      rw [Nat.add_comm j k, pow_add, ← Nat.div_div_eq_div_mul, Nat.mul_comm m, Nat.mul_add_div (by positivity),
        Nat.div_eq_of_lt hn, Nat.add_zero]
    rw [Nat.add_right_comm, beBytes, hhead, ih, beBytes, List.cons_append]

/-! ### The accumulator (R106) -/

/-- The bytes that appending `w` bits of value `n` completes. -/
def completedBytes (w n : Nat) (s : State) : List Byte :=
  beBytes ((s.nb.toNat + w) / 8) ((s.bv.toNat * 2 ^ w + n) / 2 ^ ((s.nb.toNat + w) % 8))

/-- The state that appending `w` bits of value `n` leaves: `packedField` for a field of any width. -/
def packedBits (w n : Nat) (s : State) : State :=
  { appended (completedBytes w n s) s with
    nb := BitVec.ofNat 3 ((s.nb.toNat + w) % 8)
    bv := BitVec.ofNat 7 ((s.bv.toNat * 2 ^ w + n) % 2 ^ ((s.nb.toNat + w) % 8)) }

@[simp] theorem length_completedBytes (w n : Nat) (s : State) :
    (completedBytes w n s).length = (s.nb.toNat + w) / 8 := length_beBytes _ _

theorem packedField_eq_packedBits (w : Nat) (v : Word) (s : State) : packedField w v s = packedBits w v.toNat s := by
  simp only [packedBits, appended, length_completedBytes]
  rfl

theorem packedBits_wp (w n : Nat) (s : State) :
    (packedBits w n s).wp = BitVec.ofNat 16 (s.wp.toNat + (s.nb.toNat + w) / 8) := by
  simp only [packedBits, appended, length_completedBytes]

theorem packedBits_wp_toNat {w n : Nat} {s : State} (fits : s.wp.toNat + (s.nb.toNat + w) / 8 ≤ s.cap.toNat) :
    (packedBits w n s).wp.toNat = s.wp.toNat + (s.nb.toNat + w) / 8 := by
  rw [packedBits_wp]
  exact Nat.mod_eq_of_lt (fits.trans_lt s.cap.isLt)

theorem packedBits_nb_toNat (w n : Nat) (s : State) : (packedBits w n s).nb.toNat = (s.nb.toNat + w) % 8 :=
  Nat.mod_mod _ _

/-- At most 7 bits stay pending, so BACC.bv holds them all. -/
theorem packedBits_bv_toNat (w n : Nat) (s : State) :
    (packedBits w n s).bv.toNat = (s.bv.toNat * 2 ^ w + n) % 2 ^ ((s.nb.toNat + w) % 8) := by
  have hbits : 2 ^ ((s.nb.toNat + w) % 8) ≤ 2 ^ 7 := Nat.pow_le_pow_right (by omega) (by omega)
  exact Nat.mod_eq_of_lt ((Nat.mod_lt _ (by positivity)).trans_le hbits)

/-- A number of `a` bits and one of `b` bits behind it make a number of `a + b` bits. -/
theorem concat_lt {a b x y : Nat} (hx : x < 2 ^ a) (hy : y < 2 ^ b) : x * 2 ^ b + y < 2 ^ (a + b) := by
  rw [pow_add, Nat.mul_comm x]
  exact Nat.mul_add_lt_mul_of_lt_of_lt hx hy

/-- Bits behind a number of which `r` are still pending: the completed ones stand in front of all the others. -/
theorem shift_eq_completed_add_pending (acc r b y : Nat) :
    acc * 2 ^ b + y = acc / 2 ^ r * 2 ^ (r + b) + (acc % 2 ^ r * 2 ^ b + y) := by
  conv_lhs => rw [← Nat.div_add_mod acc (2 ^ r)]
  ring

/-- The bytes that two fields complete, one after the other, are those that their concatenation completes: `acc` is the
accumulator after the first of them, `k` its completed bytes and `r` its pending bits. -/
theorem beBytes_completed (acc k r b : Nat) {y : Nat} (hy : y < 2 ^ b) :
    beBytes k (acc / 2 ^ r) ++ beBytes ((r + b) / 8) ((acc % 2 ^ r * 2 ^ b + y) / 2 ^ ((r + b) % 8)) =
      beBytes (k + (r + b) / 8) ((acc * 2 ^ b + y) / 2 ^ ((r + b) % 8)) := by
  have hbits : 2 ^ (r + b) = 256 ^ ((r + b) / 8) * 2 ^ ((r + b) % 8) := by
    rw [show 256 = 2 ^ 8 from rfl, ← pow_mul, ← pow_add, Nat.div_add_mod]
  have hpend : acc % 2 ^ r * 2 ^ b + y < 2 ^ (r + b) := concat_lt (Nat.mod_lt _ (by positivity)) hy
  have hlow : (acc % 2 ^ r * 2 ^ b + y) / 2 ^ ((r + b) % 8) < 256 ^ ((r + b) / 8) := by
    rwa [Nat.div_lt_iff_lt_mul (by positivity), ← hbits]
  rw [← beBytes_add _ _ _ hlow, shift_eq_completed_add_pending acc r b y, hbits, ← Nat.mul_assoc,
    Nat.mul_comm (_ * _), Nat.mul_add_div (by positivity)]

/-- The bits that stay pending after two fields are those that stay pending after their concatenation. -/
theorem pending_completed (acc r b y : Nat) :
    (acc % 2 ^ r * 2 ^ b + y) % 2 ^ ((r + b) % 8) = (acc * 2 ^ b + y) % 2 ^ ((r + b) % 8) := by
  have hdvd : 2 ^ ((r + b) % 8) ∣ 2 ^ (r + b) := pow_dvd_pow 2 (Nat.mod_le _ _)
  obtain ⟨c, hc⟩ := hdvd.mul_left (acc / 2 ^ r)
  rw [shift_eq_completed_add_pending acc r b y, hc, Nat.mul_add_mod]

/-- Bytes appended behind a field follow the bytes that the field has completed. -/
theorem appended_packedBits {w n : Nat} {ys : List Byte} {s : State}
    (fits : s.wp.toNat + (s.nb.toNat + w) / 8 ≤ s.cap.toNat) :
    appended ys (packedBits w n s) =
      { appended (completedBytes w n s ++ ys) s with nb := (packedBits w n s).nb, bv := (packedBits w n s).bv } := by
  rw [← appended_appended (by rwa [length_completedBytes])]
  rfl

/-- The law of the bit packer (R107): a field after a field is the field of their concatenation. -/
theorem packedBits_packedBits {a b x y : Nat} {s : State} (hy : y < 2 ^ b)
    (fits : s.wp.toNat + (s.nb.toNat + a) / 8 ≤ s.cap.toNat) :
    packedBits b y (packedBits a x s) = packedBits (a + b) (x * 2 ^ b + y) s := by
  have hacc : s.bv.toNat * 2 ^ (a + b) + (x * 2 ^ b + y) = (s.bv.toNat * 2 ^ a + x) * 2 ^ b + y := by ring
  have hk : (s.nb.toNat + (a + b)) / 8 = (s.nb.toNat + a) / 8 + ((s.nb.toNat + a) % 8 + b) / 8 := by omega
  have hr : (s.nb.toNat + (a + b)) % 8 = ((s.nb.toNat + a) % 8 + b) % 8 := by omega
  have hbytes : completedBytes a x s ++ completedBytes b y (packedBits a x s) =
      completedBytes (a + b) (x * 2 ^ b + y) s := by
    unfold completedBytes
    rw [packedBits_nb_toNat, packedBits_bv_toNat, beBytes_completed _ _ _ _ hy, hacc, hk, hr]
  rw [packedBits, appended_packedBits fits, hbytes, packedBits_nb_toNat, packedBits_bv_toNat, pending_completed,
    ← hacc, ← hr]
  rfl

/-! ### ASM.PUTF (R106) -/

/-- An answer whose value is a write pointer. -/
theorem complete_ofNat_eq_answered {n : Nat} (hn : n < 2 ^ 16) (data : List Byte) (s : State) :
    complete (BitVec.ofNat 16 n).toNat data s = s.answered 0#3 (BitVec.ofNat 32 n) data := by
  have hv : (BitVec.ofNat 16 n).toNat = n := Nat.mod_eq_of_lt hn
  rw [complete_eq_answered, hv, toResult_of_lt (by omega)]

/-- The operand range of ASM.PUTF (R72). -/
abbrev FieldInRange (w : Byte) (v : Word) : Prop := 1 ≤ w.toNat ∧ w.toNat ≤ 32 ∧ v.toNat < 2 ^ w.toNat

/-- `s` after `w` bits of value `n` are appended and answered with the new WP. -/
def fieldDone (w n : Nat) (s : State) : State := complete (packedBits w n s).wp.toNat [] (packedBits w n s)

/-- All that ASM.PUTF can answer (R106). -/
theorem exec_asmPutf (w : Byte) (v : Word) (s : State) :
    exec (.asmPutf w v) s =
      if FieldInRange w v then
        if s.wp.toNat + (s.nb.toNat + w.toNat) / 8 ≤ s.cap.toNat then
          if s.wp.toNat + (s.nb.toNat + w.toNat) / 8 ≤ Config.bufSize then .next (fieldDone w.toNat v.toNat s)
          else .fault .noSuchCell
        else .next (s.answered 3#3 (BitVec.ofNat 32 (s.wp.toNat + (s.nb.toNat + w.toNat) / 8)) [])
      else .next (s.badCommand 3) := by
  change finish s (fieldOk w v >>= _) = _
  unfold fieldOk
  rw [inRange_bind, putField_eq, packedField_eq_packedBits]
  split_ifs <;> rfl

theorem exec_asmPutf_of_room {w : Byte} {v : Word} {s : State} (hf : FieldInRange w v)
    (fits : s.wp.toNat + (s.nb.toNat + w.toNat) / 8 ≤ s.cap.toNat) (hcap : s.cap.toNat ≤ Config.bufSize) :
    exec (.asmPutf w v) s = .next (fieldDone w.toNat v.toNat s) := by
  rw [exec_asmPutf, if_pos hf, if_pos fits, if_pos (fits.trans hcap)]

/-- The law of the bit packer for answered fields (R107): the second answer replaces the first. -/
theorem fieldDone_fieldDone {a b x y : Nat} {s : State} (hy : y < 2 ^ b)
    (fits : s.wp.toNat + (s.nb.toNat + a) / 8 ≤ s.cap.toNat) :
    fieldDone b y (fieldDone a x s) = fieldDone (a + b) (x * 2 ^ b + y) s := by
  have hswap : fieldDone b y (fieldDone a x s) = fieldDone b y (packedBits a x s) := rfl
  rw [hswap, fieldDone, packedBits_packedBits hy fits]
  rfl

/-! ### Sequences of fields (R107) -/

theorem runAll_cons_ok {i : Instr} {s t : State} (is : List Instr) (h : exec i s = .next t) (ok : t.status = 0#3) :
    runAll (i :: is) s = runAll is t := by simp [runAll, h, ok]

/-- The number whose bits are the bits of `n` and then those of the fields. -/
abbrev concatFields (n : Nat) (fs : List (Byte × Word)) : Nat :=
  fs.foldl (fun n f => n * 2 ^ f.1.toNat + f.2.toNat) n

/-- The bits of all fields. -/
abbrev totalWidth (fs : List (Byte × Word)) : Nat := (fs.map fun f => f.1.toNat).sum

theorem totalWidth_cons (f : Byte × Word) (fs : List (Byte × Word)) :
    totalWidth (f :: fs) = f.1.toNat + totalWidth fs := List.sum_cons

/-- Fields appended behind `w` bits of value `n` make one field of the concatenated number. -/
theorem runAll_putf_fieldDone {fs : List (Byte × Word)} (hfs : ∀ f ∈ fs, FieldInRange f.1 f.2) {s : State}
    {w n : Nat} (fits : s.wp.toNat + (s.nb.toNat + (w + totalWidth fs)) / 8 ≤ s.cap.toNat)
    (hcap : s.cap.toNat ≤ Config.bufSize) :
    runAll (fs.map fun f => .asmPutf f.1 f.2) (fieldDone w n s) =
      .next (fieldDone (w + totalWidth fs) (concatFields n fs) s) := by
  induction fs generalizing w n with
  | nil => rfl
  | cons f fs ih =>
    obtain ⟨hf, hfs⟩ := List.forall_mem_cons.1 hfs
    rw [totalWidth_cons, ← Nat.add_assoc w] at fits ⊢
    have hfirst : s.wp.toNat + (s.nb.toNat + w) / 8 ≤ s.cap.toNat := by omega
    have hnext : (fieldDone w n s).wp.toNat + ((fieldDone w n s).nb.toNat + f.1.toNat) / 8 ≤ s.cap.toNat := by
      have hwp : (fieldDone w n s).wp.toNat = s.wp.toNat + (s.nb.toNat + w) / 8 := packedBits_wp_toNat hfirst
      have hnb : (fieldDone w n s).nb.toNat = (s.nb.toNat + w) % 8 := packedBits_nb_toNat w n s
      omega
    have hexec : exec (.asmPutf f.1 f.2) (fieldDone w n s) =
        .next (fieldDone (w + f.1.toNat) (n * 2 ^ f.1.toNat + f.2.toNat) s) := by
      rw [exec_asmPutf_of_room hf hnext hcap, fieldDone_fieldDone hf.2.2 hfirst]
    rw [List.map_cons, runAll_cons_ok _ hexec rfl]
    exact ih hfs fits

/-- A non-empty sequence of fields is one field of the concatenated number (R107). -/
theorem runAll_putf {fs : List (Byte × Word)} (hne : fs ≠ []) (hfs : ∀ f ∈ fs, FieldInRange f.1 f.2) {s : State}
    (fits : s.wp.toNat + (s.nb.toNat + totalWidth fs) / 8 ≤ s.cap.toNat) (hcap : s.cap.toNat ≤ Config.bufSize) :
    runAll (fs.map fun f => .asmPutf f.1 f.2) s = .next (fieldDone (totalWidth fs) (concatFields 0 fs) s) := by
  obtain ⟨f, fs, rfl⟩ := List.exists_cons_of_ne_nil hne
  obtain ⟨hf, hfs⟩ := List.forall_mem_cons.1 hfs
  rw [totalWidth_cons] at fits ⊢
  have hexec := exec_asmPutf_of_room hf (show s.wp.toNat + (s.nb.toNat + f.1.toNat) / 8 ≤ s.cap.toNat by omega) hcap
  rw [List.map_cons, runAll_cons_ok _ hexec rfl, runAll_putf_fieldDone hfs fits hcap]
  simp [concatFields]

/-- Whole bytes appended to an empty accumulator leave it empty. -/
theorem fieldDone_of_aligned {s : State} {q n : Nat} (hroom : Room s q) (hbv : s.bv = 0#7) :
    fieldDone (8 * q) n s = (appended (beBytes q n) s).answered 0#3 (BitVec.ofNat 32 (s.wp.toNat + q)) [] := by
  obtain ⟨hnb, hfit, -⟩ := hroom
  have hbits : s.nb.toNat = 0 := by simp [hnb]
  have hbytes : completedBytes (8 * q) n s = beBytes q n := by simp [completedBytes, hbits, hbv]
  have hstate : packedBits (8 * q) n s = appended (beBytes q n) s := by
    rw [packedBits, hbytes, hbits, Nat.zero_add, Nat.mul_mod_right, pow_zero, Nat.mod_one, ← hnb, ← hbv]
    rfl
  have hwp := s.cap.isLt
  rw [fieldDone, hstate, ← complete_ofNat_eq_answered (by omega)]
  simp only [appended, length_beBytes]

/-- The concatenation of two fields of at most 32 bits in all is itself an operand of ASM.PUTF. -/
theorem exec_asmPutf_concat {a b : Byte} {x y : Word} {s : State} (ha : 1 ≤ a.toNat) (hab : a.toNat + b.toNat ≤ 32)
    (hx : x.toNat < 2 ^ a.toNat) (hy : y.toNat < 2 ^ b.toNat)
    (fits : s.wp.toNat + (s.nb.toNat + (a.toNat + b.toNat)) / 8 ≤ s.cap.toNat)
    (hcap : s.cap.toNat ≤ Config.bufSize) :
    exec (.asmPutf (a + b) (BitVec.ofNat 32 (x.toNat * 2 ^ b.toNat + y.toNat))) s =
      .next (fieldDone (a.toNat + b.toNat) (x.toNat * 2 ^ b.toNat + y.toNat) s) := by
  have hxy := concat_lt hx hy
  have hw : (a + b).toNat = a.toNat + b.toNat := Nat.mod_eq_of_lt (by omega)
  have hv : (BitVec.ofNat 32 (x.toNat * 2 ^ b.toNat + y.toNat)).toNat = x.toNat * 2 ^ b.toNat + y.toNat :=
    Nat.mod_eq_of_lt (hxy.trans_le (Nat.pow_le_pow_right (by omega) hab))
  rw [exec_asmPutf_of_room (by rw [FieldInRange, hw, hv]; exact ⟨by omega, hab, hxy⟩) (by rwa [hw]) hcap, hw, hv]

/-- Settles O7: a sequence of fields is one field of the concatenated number, and so are two fields. -/
theorem bitPackerConcatenatesFields : Obligations.BitPackerConcatenatesFields := by
  refine ⟨fun s fs q hne hfs hsum hbv hroom => ?_, fun s a b x y ha hb hab hx hy _ fits hcap => ?_⟩
  · have fits : s.wp.toNat + (s.nb.toNat + totalWidth fs) / 8 ≤ s.cap.toNat := by
      rw [hroom.1, totalWidth, hsum]
      simpa using hroom.2.1
    have hrun := runAll_putf hne hfs fits hroom.2.2
    rw [totalWidth, hsum, fieldDone_of_aligned hroom hbv] at hrun
    refine ⟨_, hrun, ?_, ?_⟩
    · rw [bigEndian_eq_beBytes]
      exact appended_stored _ s
    · simp only [appended, length_beBytes]
      rfl
  · have hax : FieldInRange a x := ⟨ha, by omega, hx⟩
    have hby : FieldInRange b y := ⟨hb, by omega, hy⟩
    have hfs : ∀ f ∈ [(a, x), (b, y)], FieldInRange f.1 f.2 :=
      List.forall_mem_cons.2 ⟨hax, List.forall_mem_singleton.2 hby⟩
    have fits' : s.wp.toNat + (s.nb.toNat + (a.toNat + b.toNat)) / 8 ≤ s.cap.toNat := by
      rwa [← Nat.add_assoc s.nb.toNat]
    have htwo := runAll_putf (List.cons_ne_nil _ _) hfs (s := s) (by simpa [totalWidth] using fits') hcap
    have hone := exec_asmPutf_concat ha hab hx hy fits' hcap
    have hsame : fieldDone (totalWidth [(a, x), (b, y)]) (concatFields 0 [(a, x), (b, y)]) s =
        fieldDone (a.toNat + b.toNat) (x.toNat * 2 ^ b.toNat + y.toNat) s := by simp [totalWidth, concatFields]
    exact ⟨_, _, htwo.trans (congrArg _ hsame), hone, fun _ => rfl, rfl⟩

end Sys2Proof.Machine
end

section
/-! PROOFS. The commands of the assembly unit one by one (spec 40_assembly_patcher.md R101 to R110, R113): the operands
their frames carry, what append, reserve and patch answer, and the cells that a read finds. -/

namespace Sys2Proof.Machine

/-! ### Operands of a frame (R11, R70) -/

/-- A concatenation as a number. -/
theorem toNat_append_eq_mul_add {m n : Nat} (x : BitVec m) (y : BitVec n) :
    (x ++ y).toNat = x.toNat * 2 ^ n + y.toNat := by
  rw [BitVec.toNat_append, ← Nat.shiftLeft_add_eq_or_of_lt y.isLt, Nat.shiftLeft_eq]

/-- A part of a word as a number. -/
theorem extractLsb'_eq_ofNat_div {m : Nat} (v : BitVec m) (i k : Nat) :
    v.extractLsb' i k = BitVec.ofNat k (v.toNat / 2 ^ i) := by
  rw [BitVec.extractLsb', Nat.shiftRight_eq_div_pow]

/-- A 16-bit field in the statements' byte order. -/
theorem be16_eq_bigEndian (v : Half) : be16 v = bigEndian 2 v.toNat := by
  simp only [be16, extractLsb'_eq_ofNat_div]
  rfl

/-- A 32-bit field in the statements' byte order. -/
theorem be32_eq_bigEndian (v : Word) : be32 v = bigEndian 4 v.toNat := by
  simp only [be32, extractLsb'_eq_ofNat_div]
  rfl

/-- A 16-bit field read back from its bytes. -/
theorem u16_extractLsb' (v : Half) : u16 (v.extractLsb' 8 8) (v.extractLsb' 0 8) = v := by
  apply BitVec.eq_of_toNat_eq
  simp only [u16, extractLsb'_eq_ofNat_div, toNat_append_eq_mul_add, BitVec.toNat_ofNat]
  omega

/-- A 32-bit field read back from its bytes. -/
theorem u32_extractLsb' (v : Word) :
    u32 (v.extractLsb' 24 8) (v.extractLsb' 16 8) (v.extractLsb' 8 8) (v.extractLsb' 0 8) = v := by
  apply BitVec.eq_of_toNat_eq
  simp only [u32, extractLsb'_eq_ofNat_div, toNat_append_eq_mul_add, BitVec.toNat_ofNat]
  omega

/-- A `bytes` operand whose count fits 16 bits is read back. -/
theorem withBytes_bigEndian {p : List Byte} (hp : p.length ≤ 65535) (f : List Byte → Instr) :
    withBytes (bigEndian 2 p.length ++ p) f = .ok (f p) := by
  have hcount : (BitVec.ofNat 16 p.length).toNat = p.length := Nat.mod_eq_of_lt (by omega)
  have hbytes := be16_eq_bigEndian (BitVec.ofNat 16 p.length)
  rw [hcount] at hbytes
  have hoperand : bytesOperand (be16 (BitVec.ofNat 16 p.length) ++ p) = some p := by
    change (if p.length = (u16 _ _).toNat then some p else none) = some p
    rw [u16_extractLsb', hcount, if_pos rfl]
  rw [← hbytes, withBytes, hoperand]

/-! ### What is written can be read -/

/-- Every cell below the write pointer holds a byte. -/
theorem exists_read_of_writtenUpTo {m : Memory} {n k : Nat} (hm : WrittenUpTo m n) (hk : k < n) :
    ∃ b, Memory.read m k = some b := by
  have hlen : m.length = n := by simpa using congrArg List.length hm
  rw [eq_cellsFrom_of_range hm, read_cellsFrom, if_pos k.zero_le]
  exact ⟨_, List.getElem?_eq_getElem (by rwa [List.length_map, hlen])⟩

/-- A memory without gaps, cut at both ends of a range. -/
theorem exists_cellsFrom_of_writtenUpTo {m : Memory} {a k n : Nat} (hm : WrittenUpTo m n) (hk : a + k ≤ n) :
    ∃ xs ys zs : List Byte, xs.length = a ∧ ys.length = k ∧ m = cellsFrom 0 (xs ++ ys ++ zs) := by
  have hlen : m.length = n := by simpa using congrArg List.length hm
  refine ⟨(m.map Prod.snd).take a, ((m.map Prod.snd).drop a).take k, ((m.map Prod.snd).drop a).drop k, ?_, ?_, ?_⟩
  · rw [List.length_take, List.length_map]
    omega
  · rw [List.length_take, List.length_drop, List.length_map]
    omega
  · rw [List.append_assoc, List.take_append_drop, List.take_append_drop]
    exact eq_cellsFrom_of_range hm

/-- Bytes that stand in a memory read back: storing them once more changes nothing. -/
theorem readBytes_cellsFrom (xs ys zs : List Byte) :
    Memory.readBytes (cellsFrom 0 (xs ++ ys ++ zs)) xs.length ys.length = some ys := by
  have hfresh : ∀ bs : List Byte, Memory.write [] 0 bs = cellsFrom 0 bs := fun bs => by simp [Memory.write]
  have hsame := write_write_inside [] 0 xs ys zs ys rfl
  rw [hfresh, Nat.zero_add] at hsame
  rw [← hsame]
  exact readBytes_write _ _ _

/-- A range below the write pointer reads as its cells, in order. -/
theorem exists_readBytes_of_writtenUpTo {m : Memory} {a k n : Nat} (hm : WrittenUpTo m n) (hk : a + k ≤ n) :
    ∃ data : List Byte, data.length = k ∧ (∀ i : Nat, i < k → Memory.read m (a + i) = data[i]?) ∧
      Memory.readBytes m a k = some data := by
  obtain ⟨xs, ys, zs, rfl, rfl, rfl⟩ := exists_cellsFrom_of_writtenUpTo hm hk
  refine ⟨ys, rfl, fun i hi => ?_, readBytes_cellsFrom xs ys zs⟩
  rw [read_cellsFrom, if_pos (Nat.zero_le _), Nat.sub_zero, List.append_assoc, List.getElem?_append_right (by omega),
    Nat.add_sub_cancel_left, List.getElem?_append_left hi]

/-- Settles O2: below WP the cells are there to be read, and past it the check refuses. -/
theorem bufRdReturnsWrittenCells : Obligations.BufRdReturnsWrittenCells := by
  intro s off n hm
  have hframe : decodeFrame (0x02#8 :: (be16 off ++ be16 n)) = .ok (.bufRd off n) := by
    change Except.ok (Instr.bufRd (u16 _ _) (u16 _ _)) = _
    rw [u16_extractLsb', u16_extractLsb']
  have hexec : exec (.bufRd off n) s = finish s (check (off.toNat + n.toNat ≤ s.wp.toNat) _ >>= _) := rfl
  refine ⟨hframe, ?_⟩
  rw [hexec, check_bind]
  split
  next hin =>
    obtain ⟨data, hlen, hcells, hread⟩ := exists_readBytes_of_writtenUpTo hm hin
    refine ⟨data, hlen, hcells, ?_⟩
    have hv : n.toNat < 2 ^ 32 := by omega
    rw [(bufRead_ok_iff _ _ _ _).2 hread, ← toResult_of_lt hv]
    rfl
  next => rfl

/-- Settles O4: the range check of R72, then the cleared assembly. -/
theorem asmResetEmptiesTheAssembly : Obligations.AsmResetEmptiesTheAssembly := by
  intro s cap
  have hframe : decodeFrame (0x10#8 :: be16 cap) = .ok (.asmReset cap) := by
    change Except.ok (Instr.asmReset (u16 _ _)) = _
    rw [u16_extractLsb']
  have hexec : exec (.asmReset cap) s = finish s (inRange (cap.toNat ≤ 4096) >>= _) := rfl
  refine ⟨hframe, ?_⟩
  rw [hexec, inRange_bind]
  split
  next =>
    have hzero : toResult 0 = 0#32 := toResult_of_lt (by decide)
    rw [← hzero]
    rfl
  next => rfl

/-! ### Append (R100 to R105) -/

/-- A command that appends `bs` and answers the new WP follows R100. -/
theorem appendRule_of_exec {i : Instr} {bs : List Byte} {s : State} (h : exec i s = finish s (appendDone bs s)) :
    AppendRule i bs s := by
  unfold AppendRule
  rw [h, appendDone_eq]
  by_cases hnb : s.nb = 0#3
  · rw [if_neg (not_not_intro hnb), if_pos hnb]
    by_cases hfit : s.wp.toNat + bs.length ≤ s.cap.toNat
    · rw [if_neg (by omega), if_pos hfit]
      intro hcap
      have hwp := s.cap.isLt
      rw [if_pos (hfit.trans hcap)]
      exact ⟨_, rfl, appended_stored bs s, complete_ofNat_eq_answered (by omega) _ _⟩
    · rw [if_pos (by omega), if_neg hfit]
      rfl
  · rw [if_pos hnb, if_neg hnb]
    rfl

/-- Settles O5: each command is an append of its operand's bytes. -/
theorem putCommandsAppendBigEndian : Obligations.PutCommandsAppendBigEndian := by
  intro s
  refine ⟨fun v => ⟨rfl, appendRule_of_exec rfl⟩, fun v => ?_, fun v => ?_,
    fun b => ⟨fun hb => withBytes_bigEndian hb _, appendRule_of_exec rfl⟩⟩
  · rw [← be16_eq_bigEndian]
    refine ⟨?_, appendRule_of_exec rfl⟩
    change Except.ok (Instr.asmPut16 (u16 _ _)) = _
    rw [u16_extractLsb']
  · rw [← be32_eq_bigEndian]
    refine ⟨?_, appendRule_of_exec rfl⟩
    change Except.ok (Instr.asmPut32 (u32 _ _ _ _)) = _
    rw [u32_extractLsb']

/-! ### Bit fields (R106) -/

/-- Settles O6: the cases of ASM.PUTF, whose appended bytes are those that the field completes. -/
theorem putfAppendsAField : Obligations.PutfAppendsAField := by
  intro s w v
  have hframe : decodeFrame (0x15#8 :: w :: bigEndian 4 v.toNat) = .ok (.asmPutf w v) := by
    rw [← be32_eq_bigEndian]
    change Except.ok (Instr.asmPutf w (u32 _ _ _ _)) = _
    rw [u32_extractLsb']
  refine ⟨hframe, ?_⟩
  rw [exec_asmPutf]
  split
  next hf =>
    intro acc k r
    split
    next hfull => rw [if_neg (by omega)]
    next hfit =>
      intro hcap
      rw [if_pos (by omega), if_pos (show _ ≤ 4096 by omega)]
      refine ⟨_, rfl, ?_, ?_⟩
      · rw [bigEndian_eq_beBytes]
        exact appended_stored _ s
      · rw [fieldDone, packedBits_wp, complete_ofNat_eq_answered (by omega), packedBits, appended,
          length_completedBytes]
        rfl
  next => rfl

/-! ### Reserve (R108, R109) -/

/-- A command that reserves a field and answers its offset follows R108. -/
theorem reserveRule_of_exec {i : Instr} {kind : FieldKind} {bs : List Byte} {s : State}
    (h : exec i s = finish s (reserve kind bs s >>= fun t => .ok { state := t, value := s.wp.toNat })) :
    ReserveRule i kind bs s := by
  unfold ReserveRule
  rw [h, reserve_eq]
  by_cases hnb : s.nb = 0#3
  · rw [if_neg (not_not_intro hnb), if_pos hnb]
    by_cases hdepth : s.pstk.length < Config.patchDepth
    · rw [if_neg (by omega), if_pos hdepth]
      by_cases hfit : s.wp.toNat + bs.length ≤ s.cap.toNat
      · rw [if_neg (by omega), if_pos hfit]
        intro hcap
        have hwp := s.cap.isLt
        rw [if_pos (hfit.trans hcap), ← toResult_of_lt (show s.wp.toNat < 2 ^ 32 by omega)]
        exact ⟨_, rfl, appended_stored bs s, rfl⟩
      · rw [if_pos (by omega), if_neg hfit]
        rfl
    · rw [if_pos (by omega), if_neg hdepth]
      rfl
  · rw [if_pos hnb, if_neg hnb]
    rfl

/-- Settles O8: a reservation of one placeholder byte. -/
theorem rsv8ReservesALengthByte : Obligations.Rsv8ReservesALengthByte :=
  fun _ => ⟨rfl, reserveRule_of_exec rfl⟩

/-- The flags over a placeholder count, as a number. -/
theorem flags_append_zero (hi : Byte) :
    (hi.extractLsb' 0 4 ++ 0#4 : BitVec (4 + 4)) = BitVec.ofNat 8 (hi.toNat * 16) := by
  apply BitVec.eq_of_toNat_eq
  simp only [extractLsb'_eq_ofNat_div, toNat_append_eq_mul_add, BitVec.toNat_ofNat]
  omega

/-- Settles O9: the range check of R72, then a reservation of the flags and a placeholder count. -/
theorem rsv12ReservesALengthWord : Obligations.Rsv12ReservesALengthWord := by
  intro s hi
  have hexec : exec (.asmRsv12 hi) s = finish s (inRange (hi.toNat ≤ 15) >>= fun _ =>
      reserve12 (hi.extractLsb' 0 4) s >>= fun t => .ok { state := t, value := s.wp.toNat }) := rfl
  refine ⟨rfl, ?_⟩
  rw [inRange_bind] at hexec
  split
  next hhi =>
    rw [if_pos hhi, reserve12, flags_append_zero] at hexec
    exact reserveRule_of_exec hexec
  next hhi =>
    rw [hexec, if_neg hhi]
    rfl

/-! ### Patch (R110) -/

/-- The largest count that a field holds. -/
def maxCount : FieldKind → Nat
  | .w8 => 255
  | .w12 => 4095

/-- The bytes of a field closed with the count `n`, where its first byte was `b0`. -/
def closedField (kind : FieldKind) (b0 : Byte) (n : Nat) : List Byte :=
  match kind with
  | .w8 => [BitVec.ofNat 8 n]
  | .w12 => lengthWordBytes (b0.extractLsb' 4 4) (BitVec.ofNat 12 n)

/-- The state that closing the top field leaves. -/
def patched (e : PatchEntry) (rest : List PatchEntry) (b0 : Byte) (s : State) : State :=
  { s with
    buf := Memory.write s.buf e.off.toNat (closedField e.kind b0 (patchCount e s))
    pstk := rest
    encValid := false }

/-- All that ASM.PATCH can do with an open field that lies within the written bytes. -/
theorem patchTop_of_written {s : State} {e : PatchEntry} {rest : List PatchEntry} {b0 : Byte} (hnb : s.nb = 0#3)
    (hpstk : s.pstk = e :: rest) (hread : Memory.read s.buf e.off.toNat = some b0)
    (hfit : e.off.toNat + fsize e.kind ≤ Config.bufSize) :
    patchTop s =
      if patchCount e s ≤ maxCount e.kind then .ok (patched e rest b0 s, patchCount e s)
      else .error (.err (.malformedInput (patchCount e s))) := by
  obtain ⟨off, kind⟩ := e
  unfold patchTop
  rw [check_bind, if_pos hnb, hpstk]
  have hwrite (bs : List Byte) (hbs : bs.length = fsize kind) :
      bufWrite off.toNat bs s = .ok { s with buf := Memory.write s.buf off.toNat bs } :=
    (bufWrite_ok_iff _ _ _ _).2 ⟨by rw [hbs]; exact hfit, rfl⟩
  cases kind with
  | w8 =>
    simp only [check_bind]
    rw [hwrite _ rfl]
    rfl
  | w12 =>
    simp only [check_bind]
    rw [(bufReadByte_ok_iff _ _ _).2 hread]
    simp only [hwrite (lengthWordBytes _ _) rfl]
    rfl

theorem exec_asmPatch (s : State) :
    exec .asmPatch s = finish s (patchTop s >>= fun r => .ok { state := r.1, value := r.2 }) := rfl

/-- All that ASM.PATCH can answer with an open field that lies within the written bytes. -/
theorem exec_asmPatch_of_written {s : State} {e : PatchEntry} {rest : List PatchEntry} {b0 : Byte} (hnb : s.nb = 0#3)
    (hpstk : s.pstk = e :: rest) (hread : Memory.read s.buf e.off.toNat = some b0)
    (hfit : e.off.toNat + fsize e.kind ≤ Config.bufSize) :
    exec .asmPatch s =
      if patchCount e s ≤ maxCount e.kind then
        .next ((patched e rest b0 s).answered 0#3 (BitVec.ofNat 32 (patchCount e s)) [])
      else .next (s.answered 1#3 (BitVec.ofNat 32 (patchCount e s)) []) := by
  have hcount : patchCount e s < 2 ^ 32 := by
    have := s.wp.isLt
    unfold patchCount
    omega
  rw [exec_asmPatch, patchTop_of_written hnb hpstk hread hfit]
  split
  next =>
    rw [← toResult_of_lt hcount]
    rfl
  next => rfl

/-- The two bytes of a 16-bit number. -/
theorem bigEndian_two (n : Nat) : bigEndian 2 n = [BitVec.ofNat 8 (n / 256), BitVec.ofNat 8 (n % 256)] := by
  have hlow : BitVec.ofNat 8 (n % 256) = BitVec.ofNat 8 n := BitVec.eq_of_toNat_eq (Nat.mod_mod n 256)
  rw [bigEndian_eq_beBytes, hlow]
  simp [beBytes]

/-- A closed two-byte field: the high 4 bits are kept, and the count stands below them (R76, R110). -/
theorem closedField_w12 (b0 : Byte) {n : Nat} (hn : n ≤ 4095) :
    closedField .w12 b0 n = [BitVec.ofNat 8 (b0.toNat / 16 * 16 + n / 256), BitVec.ofNat 8 (n % 256)] := by
  have hword : (b0.extractLsb' 4 4 ++ BitVec.ofNat 12 n : BitVec (4 + 12)).toNat = b0.toNat / 16 * 4096 + n := by
    rw [toNat_append_eq_mul_add, extractLsb'_eq_ofNat_div, BitVec.toNat_ofNat, BitVec.toNat_ofNat]
    omega
  have hhigh : (b0.toNat / 16 * 4096 + n) / 256 = b0.toNat / 16 * 16 + n / 256 := by omega
  have hlow : (b0.toNat / 16 * 4096 + n) % 256 = n % 256 := by omega
  rw [closedField, lengthWordBytes, be16_eq_bigEndian, hword, bigEndian_two, hhigh, hlow]

/-- The closed field is stored in the field's place and nowhere else. -/
theorem patched_stored (e : PatchEntry) (rest : List PatchEntry) (b0 : Byte) (s : State) :
    Stored s.buf (patched e rest b0 s).buf e.off.toNat (closedField e.kind b0 (patchCount e s)) :=
  ⟨fun i h => read_write_same _ _ _ i h, fun k h => read_write_other _ _ _ k h⟩

/-- Settles O10: the two refusals, and then closing a field whose first byte is there to be read. -/
theorem patchWritesTheCount : Obligations.PatchWritesTheCount := by
  intro s
  refine ⟨rfl, fun hnb => ?_, fun hnb hpstk => ?_, fun e rest hnb hpstk hwritten hwp hm => ?_⟩
  · rw [exec_asmPatch, patchTop, check_bind, if_neg hnb]
    rfl
  · rw [exec_asmPatch, patchTop, check_bind, if_pos hnb, hpstk]
    rfl
  · have hsize : 1 ≤ fsize e.kind := by cases e.kind <;> decide
    obtain ⟨b0, hread⟩ := exists_read_of_writtenUpTo (k := e.off.toNat) hm (by omega)
    have hpatch := exec_asmPatch_of_written hnb hpstk hread (hwritten.trans hwp)
    have hstored := patched_stored e rest b0 s
    obtain ⟨off, kind⟩ := e
    cases kind with
    | w8 =>
      change if patchCount _ s ≤ 255 then _ else _
      split_ifs with hle
      · exact ⟨_, b0, hpatch.trans (if_pos hle), hread, hstored, rfl⟩
      · exact hpatch.trans (if_neg hle)
    | w12 =>
      change if patchCount _ s ≤ 4095 then _ else _
      split_ifs with hle
      · rw [closedField_w12 b0 hle] at hstored
        exact ⟨_, b0, hpatch.trans (if_pos hle), hread, hstored, rfl⟩
      · exact hpatch.trans (if_neg hle)

end Sys2Proof.Machine
end

section
/-! PROOFS. `parse` is defined where the structure check of a kind succeeds (spec 42_descriptor_kinds.md R150 to R166,
41_descriptor_codec.md R132): the cursor that a check moves is what a parser leaves. -/

namespace Sys2Proof.Machine

/-! ### Parsers and cursors -/

section
variable {α β : Type}

/-- A parser in front of a check of what it leaves. -/
theorem isSome_bind_rest {x : Option (α × List Byte)} {f : α × List Byte → Option β} {c : List Byte → Bool}
    (hf : ∀ y, (f y).isSome = c y.2) : (x.bind f).isSome = (x.map Prod.snd).any c := by
  cases x with
  | none => rfl
  | some y => exact hf y

/-- A parser in front of another: the second goes on where the first has stopped. -/
theorem rest_bind {x : Option (α × List Byte)} {f : α × List Byte → Option (β × List Byte)}
    {g : List Byte → Option (List Byte)} (hf : ∀ y, (f y).map Prod.snd = g y.2) :
    (x.bind f).map Prod.snd = (x.map Prod.snd).bind g := by
  cases x with
  | none => rfl
  | some y => exact hf y

/-- A run of bytes in front of a parser of the run and of what follows it. -/
theorem isSome_takeN_bind (n : Nat) (r : List Byte) (f : List Byte × List Byte → Option β) :
    ((takeN n r).bind f).isSome = (decide (n ≤ r.length) && (f (r.take n, r.drop n)).isSome) := by
  unfold takeN
  split
  next h => simp [h]
  next h => simp [h]

/-- Where a parser needs a byte behind the run, the run itself needs no check. -/
theorem takeN_bind_of_nonempty_rest (n : Nat) (r : List Byte) {f : List Byte × List Byte → Option β}
    (hf : ∀ xs, f (xs, []) = none) : (takeN n r).bind f = f (r.take n, r.drop n) := by
  unfold takeN
  split
  next => rfl
  next h => rw [List.drop_eq_nil_of_le (by omega), hf]; rfl

theorem any_dropN (n : Nat) (r : List Byte) (c : List Byte → Bool) :
    (dropN n r).any c = (decide (n ≤ r.length) && c (r.drop n)) := by
  unfold dropN
  split
  next h => simp [h]
  next h => simp [h]

theorem dropN_zero (r : List Byte) : dropN 0 r = some r := by simp [dropN]

/-- A step of the cursor after another is one step. -/
theorem dropN_bind_dropN (m n : Nat) (r : List Byte) : (dropN m r).bind (dropN n) = dropN (m + n) r := by
  unfold dropN
  split
  next hm =>
    rw [Option.bind_some, List.length_drop, List.drop_drop]
    exact if_congr (by omega) rfl rfl
  next hm => rw [if_neg (by omega)]; rfl

/-- An optional 16-bit field moves the cursor by two bytes where it is present. -/
theorem rest_take16If (c : Bool) (r : List Byte) :
    (take16If c r).map Prod.snd = dropN (if c then 2 else 0) r := by
  cases c with
  | false => exact (dropN_zero r).symm
  | true =>
    match r with
    | [] | [_] | _ :: _ :: _ => simp [take16If, take16, dropN]

/-- Optional fields one after another: the cursor moves by the sum of their lengths. -/
theorem rest_take16If_bind (c : Bool) (r : List Byte) {f : Option Half × List Byte → Option (β × List Byte)} {n : Nat}
    (hf : ∀ y, (f y).map Prod.snd = dropN n y.2) :
    ((take16If c r).bind f).map Prod.snd = dropN ((if c then 2 else 0) + n) r := by
  rw [rest_bind hf, rest_take16If, dropN_bind_dropN]

end

/-- A part of a byte as a number. -/
theorem field_toNat (b : Byte) (lo w : Nat) : (field b lo w).toNat = b.toNat / 2 ^ lo % 2 ^ w := by
  rw [field, extractLsb'_eq_ofNat_div, BitVec.toNat_ofNat]

theorem field_eq_iff (b : Byte) (lo w : Nat) (v : BitVec w) :
    field b lo w = v ↔ b.toNat / 2 ^ lo % 2 ^ w = v.toNat := by
  rw [← field_toNat, BitVec.toNat_inj]

/-! ### Records of a fixed length (R151 to R154, R161, R162, R165) -/

theorem isSome_parseServiceList : ∀ p : List Byte, (parseServiceList p).isSome = wfServiceList p
  | [] | [_] | [_, _] => rfl
  | _ :: _ :: _ :: r => by simpa [parseServiceList, wfServiceList, Nat.add_assoc] using isSome_parseServiceList r

theorem isSome_words32 : ∀ p : List Byte, (words32 p).isSome = (p.length % 4 == 0)
  | [] | [_] | [_, _] | [_, _, _] => rfl
  | _ :: _ :: _ :: _ :: r => by simpa [words32, Nat.add_assoc] using isSome_words32 r

theorem isSome_parseSubcells : ∀ p : List Byte, (parseSubcells p).isSome = (p.length % 5 == 0)
  | [] | [_] | [_, _] | [_, _, _] | [_, _, _, _] => rfl
  | _ :: _ :: _ :: _ :: _ :: r => by simpa [parseSubcells, Nat.add_assoc] using isSome_parseSubcells r

/-- A parser that is defined on the lists of 11 bytes and on no others. -/
theorem isSome_eq_length_eleven {α : Type} {parse : List Byte → Option α} (p : List Byte)
    (hsome : ∀ a b c d e f g h i j k : Byte, (parse [a, b, c, d, e, f, g, h, i, j, k]).isSome = true)
    (hlen : (parse p).isSome = true → p.length = 11) : (parse p).isSome = (p.length == 11) := by
  rw [Bool.eq_iff_iff, beq_iff_eq]
  refine ⟨hlen, fun h => ?_⟩
  match p, h with
  | [a, b, c, d, e, f, g, h, i, j, k], _ => exact hsome a b c d e f g h i j k

theorem isSome_parseSatDelivery (p : List Byte) : (parseSatDelivery p).isSome = wfSatDelivery p :=
  isSome_eq_length_eleven p (fun _ _ _ _ _ _ _ _ _ _ _ => rfl) fun h => by
    unfold parseSatDelivery at h
    split at h
    next => rfl
    next => cases h

theorem isSome_parseCableDelivery (p : List Byte) : (parseCableDelivery p).isSome = wfCableDelivery p :=
  isSome_eq_length_eleven p (fun _ _ _ _ _ _ _ _ _ _ _ => rfl) fun h => by
    unfold parseCableDelivery at h
    split at h
    next => rfl
    next => cases h

theorem isSome_parseTerrDelivery (p : List Byte) : (parseTerrDelivery p).isSome = wfTerrDelivery p :=
  isSome_eq_length_eleven p (fun _ _ _ _ _ _ _ _ _ _ _ => rfl) fun h => by
    unfold parseTerrDelivery at h
    split at h
    next => rfl
    next => cases h

theorem isSome_parsePrivateDataSpec : ∀ p : List Byte, (parsePrivateDataSpec p).isSome = wfPrivateDataSpec p
  | [] | [_] | [_, _] | [_, _, _] | [_, _, _, _] => rfl
  | _ :: _ :: _ :: _ :: _ :: _ => by simp [parsePrivateDataSpec, wfPrivateDataSpec]

theorem isSome_parseFrequencyList (p : List Byte) : (parseFrequencyList p).isSome = wfFrequencyList p := by
  cases p with
  | nil => rfl
  | cons c r => exact Option.isSome_map.trans (isSome_words32 r)

/-! ### Linkage (R155, R156) -/

theorem rest_parseHandOver (p : List Byte) : (parseHandOver p).map Prod.snd = wfHandOver p := by
  cases p with
  | nil => rfl
  | cons f r =>
    have hhot : (field f 4 4).toNat = f.toNat / 16 := by
      rw [field_toNat]
      omega
    have hot : field f 0 1 = 0#1 ↔ f.toNat % 2 = 0 := by
      rw [field_eq_iff, pow_zero, Nat.div_one]
      rfl
    have hrest : (parseHandOver (f :: r)).map Prod.snd =
        dropN ((if decide (1 ≤ (field f 4 4).toNat ∧ (field f 4 4).toNat ≤ 3) then 2 else 0) +
          ((if decide (field f 0 1 = 0#1) then 2 else 0) + 0)) r :=
      rest_take16If_bind _ r fun x => rest_take16If_bind _ x.2 fun y => (dropN_zero y.2).symm
    simp only [hhot, hot, decide_eq_true_eq, Nat.add_zero] at hrest
    rw [hrest, wfHandOver, ← dropN_bind_dropN]
    have hfirst : (if 1 ≤ f.toNat / 16 ∧ f.toNat / 16 ≤ 3 then dropN 2 r else some r) =
        dropN (if 1 ≤ f.toNat / 16 ∧ f.toNat / 16 ≤ 3 then 2 else 0) r := by
      split
      next => rfl
      next => exact (dropN_zero r).symm
    rw [hfirst]
    cases dropN _ r with
    | none => rfl
    | some r' =>
      split
      next => rfl
      next => exact dropN_zero r'

theorem rest_parseEvent : ∀ p : List Byte, (parseEvent p).map Prod.snd = wfEvent p
  | [] | [_] | [_, _] => rfl
  | _ :: _ :: _ :: _ => by simp [parseEvent, wfEvent, dropN]

/-- The optional fields of a target entry are as long as its flag byte says. -/
theorem rest_parseTarget (a b f : Byte) (r : List Byte) :
    (parseTarget (a :: b :: f :: r)).map Prod.snd = dropN (targetExtra f) r := by
  have hrest : (parseTarget (a :: b :: f :: r)).map Prod.snd =
      dropN ((if decide (field f 2 2 = 3#2) then 2 else 0) + ((if decide (field f 2 2 = 1#2) then 2 else 0) +
        ((if decide (field f 2 2 ≠ 3#2 ∧ field f 1 1 = 1#1) then 2 else 0) +
          ((if decide (field f 2 2 ≠ 3#2 ∧ field f 0 1 = 1#1) then 2 else 0) + 0)))) r :=
    rest_take16If_bind _ r fun u => rest_take16If_bind _ u.2 fun t => rest_take16If_bind _ t.2 fun o =>
      rest_take16If_bind _ o.2 fun x => (dropN_zero x.2).symm
  rw [hrest]
  congr 1
  simp only [targetExtra, decide_eq_true_eq, field_eq_iff, ne_eq, BitVec.reduceToNat, Nat.reducePow]
  split_ifs <;> omega

theorem isSome_parseTargetLoop (k : Nat) (p : List Byte) : (parseTargetLoop k p).isSome = wfTargetLoop k p := by
  induction k generalizing p with
  | zero =>
    match p with
    | [] | [_] | [_, _] | _ :: _ :: _ :: _ => rfl
  | succ k ih =>
    match p with
    | [] | [_] | [_, _] => rfl
    | a :: b :: f :: r =>
      rw [parseTargetLoop, isSome_bind_rest (fun e => Option.isSome_map.trans (ih e.2)), rest_parseTarget, any_dropN,
        wfTargetLoop]

theorem rest_parseTargets (p : List Byte) : (parseTargets p).map Prod.snd = wfTargets p := by
  cases p with
  | nil => rfl
  | cons ll r =>
    rw [parseTargets, wfTargets, ← isSome_parseTargetLoop, takeN]
    by_cases h : ll.toNat ≤ r.length
    · cases hloop : parseTargetLoop ll.toNat (r.take ll.toNat) <;> simp [h, hloop]
    · simp [h]

theorem isSome_parseTrailer (lt : Byte) (r : List Byte) :
    (parseTrailer lt r).isSome =
      if lt = 0x08#8 then (wfHandOver r).isSome
      else if lt = 0x0D#8 then (wfEvent r).isSome
      else if 0x0E ≤ lt.toNat ∧ lt.toNat ≤ 0x1F then (wfTargets r).isSome
      else true := by
  rw [parseTrailer, ← rest_parseHandOver, ← rest_parseEvent, ← rest_parseTargets]
  split_ifs <;> simp only [Option.isSome_map, Option.isSome_some]

theorem isSome_parseLinkage : ∀ p : List Byte, (parseLinkage p).isSome = wfLinkage p
  | [] | [_] | [_, _] | [_, _, _] | [_, _, _, _] | [_, _, _, _, _] | [_, _, _, _, _, _] => rfl
  | _ :: _ :: _ :: _ :: _ :: _ :: lt :: r => Option.isSome_map.trans (isSome_parseTrailer lt r)

/-! ### Texts and lists of texts (R157 to R160, R163) -/

/-- The text that ends a region is as long as its length byte says. -/
theorem isSome_parseLastText_cons (l : Byte) (r : List Byte) :
    (parseLastText (l :: r)).isSome = (l.toNat == r.length) := by
  rw [parseLastText, parseText, isSome_takeN_bind]
  by_cases h : l.toNat = r.length
  · simp [h]
  · by_cases hle : l.toNat ≤ r.length
    · have hrest : r.drop l.toNat ≠ [] := by
        rw [ne_eq, List.drop_eq_nil_iff]
        omega
      simp [h, hrest]
    · simp [h, hle]

theorem isSome_parseShortEvent : ∀ p : List Byte, (parseShortEvent p).isSome = wfShortEvent p
  | [] | [_] | [_, _] | [_, _, _] => rfl
  | a :: b :: c :: nl :: r => by
    rw [parseShortEvent, parseText, takeN_bind_of_nonempty_rest _ _ (fun _ => rfl), Option.isSome_map, wfShortEvent]
    cases r.drop nl.toNat with
    | nil => rfl
    | cons tl t => exact isSome_parseLastText_cons tl t

theorem isSome_parseItemLoop (k : Nat) (p : List Byte) : (parseItemLoop k p).isSome = wfItemLoop k p := by
  induction k generalizing p with
  | zero => cases p <;> rfl
  | succ k ih =>
    cases p with
    | nil => rfl
    | cons dl r =>
      rw [parseItemLoop, parseText, takeN_bind_of_nonempty_rest _ _ (fun _ => rfl), wfItemLoop]
      cases r.drop dl.toNat with
      | nil => rfl
      | cons il t => rw [parseText, isSome_takeN_bind, Option.isSome_map, ih]

/-- A run with at least one byte behind it has its full length. -/
theorem length_take_of_drop_eq_cons {n : Nat} {r t : List Byte} {x : Byte} (h : r.drop n = x :: t) :
    (r.take n).length = n := by
  have hlen := congrArg List.length h
  rw [List.length_drop, List.length_cons] at hlen
  rw [List.length_take]
  omega

theorem isSome_parseExtendedEvent : ∀ p : List Byte, (parseExtendedEvent p).isSome = wfExtendedEvent p
  | [] | [_] | [_, _] | [_, _, _] | [_, _, _, _] => rfl
  | a :: b :: c :: d :: li :: r => by
    have hnil (xs : List Byte) : ((parseItemLoop xs.length xs).bind fun items =>
        (parseLastText []).map fun t => (⟨field a 4 4, field a 0 4, ⟨b, c, d⟩, items, t⟩ : ExtendedEvent)) = none :=
      Option.bind_fun_none _
    rw [parseExtendedEvent, parseText, takeN_bind_of_nonempty_rest _ _ hnil, wfExtendedEvent]
    cases h : r.drop li.toNat with
    | nil => exact congrArg Option.isSome (hnil _)
    | cons tl t =>
      simp only [length_take_of_drop_eq_cons h, ← isSome_parseItemLoop, ← isSome_parseLastText_cons]
      cases parseItemLoop li.toNat (r.take li.toNat) with
      | none => rfl
      | some items => exact Option.isSome_map

theorem isSome_parseBlockLoop (k : Nat) (p : List Byte) : (parseBlockLoop k p).isSome = wfBlockLoop k p := by
  induction k generalizing p with
  | zero =>
    match p with
    | [] | [_] | [_, _] | [_, _, _] | _ :: _ :: _ :: _ :: _ => rfl
  | succ k ih =>
    match p with
    | [] | [_] | [_, _] | [_, _, _] => rfl
    | a :: b :: c :: l :: r =>
      rw [parseBlockLoop, parseText, isSome_takeN_bind, Option.isSome_map, ih, wfBlockLoop]

theorem isSome_parseMlComponent (p : List Byte) : (parseMlComponent p).isSome = wfMlComponent p := by
  cases p with
  | nil => rfl
  | cons t r => exact Option.isSome_map.trans (isSome_parseBlockLoop _ r)

theorem isSome_parseDataBroadcast : ∀ p : List Byte, (parseDataBroadcast p).isSome = wfDataBroadcast p
  | [] | [_] | [_, _] | [_, _, _] => rfl
  | a :: b :: c :: sl :: r => by
    rw [parseDataBroadcast, parseText, takeN_bind_of_nonempty_rest _ _ (fun _ => rfl), wfDataBroadcast]
    match r.drop sl.toNat with
    | [] | [_] | [_, _] | [_, _, _] => rfl
    | x :: y :: z :: tl :: t => exact Option.isSome_map.trans (isSome_parseLastText_cons tl t)

/-! ### The T2 delivery system (R164, R165) -/

/-- A run of 32-bit fields has a length that is a multiple of 4. -/
theorem rest_takeN_words32 (n : Nat) (r : List Byte) :
    ((takeN n r).bind fun x => (words32 x.1).map fun fs => (fs, x.2)).map Prod.snd =
      if n % 4 = 0 then dropN n r else none := by
  unfold takeN dropN
  by_cases h : n ≤ r.length
  · have hwords := isSome_words32 (r.take n)
    rw [List.length_take_of_le h] at hwords
    cases hw : words32 (r.take n) with
    | none =>
      have hn : n % 4 ≠ 0 := by simpa [hw] using hwords
      simp [h, hw, hn]
    | some fs =>
      have hn : n % 4 = 0 := by simpa [hw] using hwords
      simp [h, hw, hn]
  · simp [h]

theorem rest_parseCellFrequencies (tfs : Bool) (r : List Byte) :
    (parseCellFrequencies tfs r).map Prod.snd = wfCellFrequencies tfs r := by
  cases tfs with
  | false => exact rest_takeN_words32 4 r
  | true =>
    cases r with
    | nil => rfl
    | cons fl r => exact rest_takeN_words32 fl.toNat r

/-- The subcells of a cell in front of a check of what they leave. -/
theorem isSome_parseSubcells_bind {β : Type} (r : List Byte) {f : List Byte × List Byte → List T2Subcell → Option β}
    {c : List Byte → Bool} (hf : ∀ s subs, (f s subs).isSome = c s.2) :
    ((parseText r).bind fun s => (parseSubcells s.1).bind fun subs => f s subs).isSome = (wfSubcells r).any c := by
  cases r with
  | nil => rfl
  | cons sl r =>
    rw [parseText, isSome_takeN_bind, wfSubcells]
    by_cases h : sl.toNat ≤ r.length
    · have hsubs := isSome_parseSubcells (r.take sl.toNat)
      rw [List.length_take_of_le h] at hsubs
      cases hs : parseSubcells (r.take sl.toNat) with
      | none =>
        have hsl : sl.toNat % 5 ≠ 0 := by simpa [hs] using hsubs
        simp [hsl]
      | some subs =>
        have hsl : sl.toNat % 5 = 0 := by simpa [hs] using hsubs
        simp [h, hsl, hf, any_dropN]
    · simp [h, dropN]

theorem isSome_parseCellLoop (tfs : Bool) (k : Nat) (p : List Byte) :
    (parseCellLoop tfs k p).isSome = wfCellLoop tfs k p := by
  induction k generalizing p with
  | zero =>
    match p with
    | [] | [_] | _ :: _ :: _ => rfl
  | succ k ih =>
    match p with
    | [] | [_] => rfl
    | a :: b :: r =>
      have hcells : (parseCellLoop tfs (k + 1) (a :: b :: r)).isSome =
          ((parseCellFrequencies tfs r).map Prod.snd).any fun r' => (wfSubcells r').any (wfCellLoop tfs k) := by
        rw [parseCellLoop]
        refine isSome_bind_rest fun f => isSome_parseSubcells_bind f.2 fun s subs => ?_
        rw [Option.isSome_map, ih]
      rw [hcells, rest_parseCellFrequencies, wfCellLoop]
      cases wfCellFrequencies tfs r with
      | none => rfl
      | some r' =>
        simp only [Option.any_some]
        cases wfSubcells r' <;> rfl

theorem isSome_parseT2 : ∀ p : List Byte, (parseT2 p).isSome = wfT2 p
  | [] | [_] | [_, _] | [_, _, _] | [_, _, _, _] | [_, _, _, _, _] => rfl
  | _ :: _ :: _ :: _ :: _ :: _ :: _ => Option.isSome_map.trans (isSome_parseCellLoop _ _ _)

theorem isSome_parseExtension (p : List Byte) : (parseKind 0x7F#8 p).isSome = wfExtension p := by
  cases p with
  | nil => rfl
  | cons x r =>
    change (if x = 0x04#8 then (parseT2 (x :: r)).map _ else _).isSome = if x = 0x04#8 then wfT2 (x :: r) else true
    split
    next => exact Option.isSome_map.trans (isSome_parseT2 _)
    next => rfl

end Sys2Proof.Machine
end

section
/-! PROOFS. What `lookup` and `create` admit (spec 43_registry.md R190 to R192), in the terms of the statements: the
tags that select a kind, and the status code and information of the error. -/

namespace Sys2Proof.Machine

/-! ### The registry (R190, R191) -/

theorem lookup_of_mem_registry {tag : Byte} {k : Kind} (h : (tag, k) ∈ registry) : lookup tag = .ok k := by
  have hdistinct : ∀ e ∈ registry, registry.lookup e.1 = some e.2 := by decide
  rw [lookup, hdistinct _ h]

theorem mem_registry_of_mem_registeredTags {tag : Byte} (h : tag ∈ registeredTags) : ∃ k, (tag, k) ∈ registry := by
  obtain ⟨e, he, rfl⟩ := List.mem_map.1 (show tag ∈ registry.map Prod.fst from h)
  exact ⟨e.2, he⟩

theorem lookup_of_not_registered {tag : Byte} (h : tag ∉ registeredTags) :
    lookup tag = if 0x80 ≤ tag.toNat then .ok .opaquePass else .error (.err (.unknownTag tag)) := by
  have hnone : registry.lookup tag = none := by
    refine List.lookup_eq_none_iff.mpr fun e he => bne_iff_ne.mpr ?_
    rintro rfl
    exact h (List.mem_map_of_mem (f := Prod.fst) he)
  rw [lookup, hnone]

/-- `parse` of a registered kind is defined where its check succeeds (R132). -/
theorem isSome_parseKind_of_mem_registry {tag : Byte} {k : Kind} (h : (tag, k) ∈ registry) (p : List Byte) :
    (parseKind tag p).isSome = wfKind k p := by
  simp only [registry, List.mem_cons, Prod.mk.injEq, List.not_mem_nil, or_false] at h
  rcases h with ⟨rfl, rfl⟩ | ⟨rfl, rfl⟩ | ⟨rfl, rfl⟩ | ⟨rfl, rfl⟩ | ⟨rfl, rfl⟩ | ⟨rfl, rfl⟩ | ⟨rfl, rfl⟩ | ⟨rfl, rfl⟩ |
    ⟨rfl, rfl⟩ | ⟨rfl, rfl⟩ | ⟨rfl, rfl⟩ | ⟨rfl, rfl⟩ | ⟨rfl, rfl⟩ | ⟨rfl, rfl⟩
  · rfl
  · exact Option.isSome_map.trans (isSome_parseServiceList p)
  · exact Option.isSome_map.trans (isSome_parseSatDelivery p)
  · exact Option.isSome_map.trans (isSome_parseCableDelivery p)
  · exact Option.isSome_map.trans (isSome_parseLinkage p)
  · exact Option.isSome_map.trans (isSome_parseShortEvent p)
  · exact Option.isSome_map.trans (isSome_parseExtendedEvent p)
  · exact Option.isSome_map.trans (isSome_parseTerrDelivery p)
  · exact Option.isSome_map.trans (isSome_parseBlockLoop _ p)
  · exact Option.isSome_map.trans (isSome_parseMlComponent p)
  · exact Option.isSome_map.trans (isSome_parsePrivateDataSpec p)
  · exact Option.isSome_map.trans (isSome_parseFrequencyList p)
  · exact Option.isSome_map.trans (isSome_parseDataBroadcast p)
  · exact isSome_parseExtension p

/-- A tag from 0x80 up has the opaque kind, whose payload is free (R166). -/
theorem parseKind_of_opaque {tag : Byte} (h : 0x80 ≤ tag.toNat) (p : List Byte) :
    parseKind tag p = some (.packOpaque tag p) := by
  unfold parseKind
  split
  on_goal 15 => exact if_pos h
  all_goals omega

/-- A tag selects a kind, whose check succeeds where `parse` is defined (R132, R191), or it is unknown. -/
theorem lookup_cases (tag : Byte) :
    (knownTag tag = true ∧ ∃ k, lookup tag = .ok k ∧ ∀ p, (parseKind tag p).isSome = wfKind k p) ∨
      (knownTag tag = false ∧ lookup tag = .error (.err (.unknownTag tag))) := by
  by_cases hreg : tag ∈ registeredTags
  · obtain ⟨k, hk⟩ := mem_registry_of_mem_registeredTags hreg
    exact .inl ⟨by simp [knownTag, hreg], k, lookup_of_mem_registry hk, isSome_parseKind_of_mem_registry hk⟩
  · have hlookup := lookup_of_not_registered hreg
    by_cases hopaque : 0x80 ≤ tag.toNat
    · rw [if_pos hopaque] at hlookup
      refine .inl ⟨by simp [knownTag, hopaque], _, hlookup, fun p => ?_⟩
      rw [parseKind_of_opaque hopaque]
      rfl
    · rw [if_neg hopaque] at hlookup
      exact .inr ⟨by simp [knownTag, hreg, hopaque], hlookup⟩

/-! ### `create` (R192) -/

/-- A command goes on with what a successful part of its work has left. -/
theorem ok_bind {α β : Type} (a : α) (f : α → Except Stop β) : (Except.ok a >>= f) = f a := rfl

/-- All that `create` can do: it admits the payload, or it fails with the error that `admitError` names. -/
theorem create_cases (tag : Byte) (p : List Byte) :
    (create tag p = .ok ⟨tag, p⟩ ∧ admitError tag p = none ∧ p.length ≤ 255) ∨
      ∃ e, create tag p = .error (.err e) ∧ admitError tag p = some (statusCode e, errInfo e) := by
  unfold create admitError
  rcases lookup_cases tag with ⟨hknown, k, hlookup, hparse⟩ | ⟨hunknown, hlookup⟩
  · rw [if_neg (by simp [hknown]), hlookup, ok_bind, check_bind]
    by_cases hlen : p.length ≤ 255
    · rw [if_pos hlen, if_neg (by omega), check_bind, ← hparse]
      cases parseKind tag p with
      | none => exact .inr ⟨.malformedInput 0, rfl, rfl⟩
      | some i => exact .inl ⟨rfl, rfl, hlen⟩
    · rw [if_neg hlen, if_pos (by omega)]
      exact .inr ⟨.malformedInput p.length, rfl, rfl⟩
  · rw [if_pos hunknown, hlookup]
    exact .inr ⟨.unknownTag tag, rfl, rfl⟩

theorem create_ok_iff (tag : Byte) (p : List Byte) : create tag p = .ok ⟨tag, p⟩ ↔ admitError tag p = none := by
  rcases create_cases tag p with ⟨hcreate, hadmit, -⟩ | ⟨e, hcreate, hadmit⟩ <;> simp [hcreate, hadmit]

theorem length_le_of_admitError_eq_none {tag : Byte} {p : List Byte} (h : admitError tag p = none) :
    p.length ≤ 255 := by
  rcases create_cases tag p with ⟨-, -, hlen⟩ | ⟨e, -, hadmit⟩
  · exact hlen
  · rw [h] at hadmit
    cases hadmit

/-- A command that begins with `create` answers its error, or goes on with the descriptor. -/
theorem finish_create_bind {tag : Byte} {p : List Byte} {s ok : State} {f : Descriptor → Except Stop Done}
    (h : admitError tag p = none → finish s (f ⟨tag, p⟩) = .next ok) :
    finish s (create tag p >>= f) = .next (admitted tag p s ok) := by
  unfold admitted
  rcases create_cases tag p with ⟨hcreate, hadmit, -⟩ | ⟨e, hcreate, hadmit⟩
  · rw [hcreate, hadmit]
    exact h hadmit
  · rw [hcreate, hadmit]
    rfl

end Sys2Proof.Machine
end

section
/-! PROOFS. The commands of the descriptor codec (spec 41_descriptor_codec.md R137 to R140). -/

namespace Sys2Proof.Machine

/-! ### DESC.SIZE (R137) -/

/-- All that DESC.SIZE can answer. -/
theorem exec_descSize (tag : Byte) (p : List Byte) (s : State) :
    exec (.descSize tag p) s = .next (admitted tag p s (s.answered 0#3 (BitVec.ofNat 32 (p.length + 2)) [])) := by
  refine finish_create_bind fun hadmit => ?_
  have hlen := length_le_of_admitError_eq_none hadmit
  rw [← toResult_of_lt (show p.length + 2 < 2 ^ 32 by omega)]
  rfl

/-- Settles O14: `create`, and then the two bytes in front of the payload. -/
theorem descSizeIsLengthPlusTwo : Obligations.DescSizeIsLengthPlusTwo :=
  fun s tag p => ⟨fun hp => withBytes_bigEndian hp _, exec_descSize tag p s⟩

/-! ### DESC.DEC (R139) -/

theorem decodeCheck_of_ne {k t : Byte} (h : t ≠ k) (c : Kind) (r : List Byte) :
    decodeCheck k c (t :: r) = .error (.err (.tagMismatch t)) := by
  change (check (t = k) _ >>= _) = _
  rw [check_bind, if_neg h]

theorem decodeCheck_tag_only (k : Byte) (c : Kind) : decodeCheck k c [k] = .error (.err (.malformedInput 1)) := by
  rw [decodeCheck, check_bind, if_pos rfl]

theorem decodeCheck_cons_cons (k l : Byte) (c : Kind) (p : List Byte) :
    decodeCheck k c (k :: l :: p) =
      if (k :: l :: p).length = l.toNat + 2 then
        if wfKind c p = true then .ok l.toNat else .error (.err (.malformedInput 0))
      else .error (.err (.malformedInput (k :: l :: p).length)) := by
  rw [decodeCheck, check_bind, if_pos rfl]
  simp only [check_bind]
  rfl

theorem exec_descDec {k : Byte} {c : Kind} (h : lookup k = .ok c) (b : List Byte) (s : State) :
    exec (.descDec k b) s = finish s (decodeCheck k c b >>= fun l => .ok { state := s, value := l }) := by
  change finish s (lookup k >>= _) = _
  rw [h]
  rfl

/-- Settles O16: the lookup, and then the checks of `decodeCheck` in their order. -/
theorem descDecChecksOneDescriptor : Obligations.DescDecChecksOneDescriptor := by
  intro s k b
  refine ⟨fun hb => withBytes_bigEndian hb _, ?_⟩
  rcases lookup_cases k with ⟨hknown, c, hlookup, hparse⟩ | ⟨hunknown, hlookup⟩
  · rw [if_neg (by simp [hknown]), exec_descDec hlookup]
    match b with
    | [] => rfl
    | t :: r =>
      by_cases htag : t = k
      · subst htag
        match r with
        | [] =>
          dsimp only
          rw [decodeCheck_tag_only, if_neg (not_not_intro rfl)]
          rfl
        | l :: p =>
          dsimp only
          rw [decodeCheck_cons_cons, if_neg (not_not_intro rfl)]
          by_cases hlen : (t :: l :: p).length = l.toNat + 2
          · rw [if_pos hlen, if_neg (not_not_intro hlen), ← hparse]
            cases parseKind t p with
            | none => rfl
            | some i =>
              rw [← toResult_of_lt (show l.toNat < 2 ^ 32 by omega)]
              rfl
          · rw [if_neg hlen, if_pos hlen]
            rfl
      · dsimp only
        rw [decodeCheck_of_ne htag, if_pos htag]
        rfl
  · rw [if_pos hunknown]
    change finish s (lookup k >>= _) = _
    rw [hlookup]
    rfl

/-! ### DESC.ENC (R138) -/

/-- With room and a free entry of PSTK, a reservation succeeds (R108, R109). -/
theorem reserve_of_room {kind : FieldKind} {bs : List Byte} {s : State} (hdepth : s.pstk.length < 8)
    (hroom : Room s bs.length) : reserve kind bs s = .ok (reserved kind bs s) := by
  rw [reserve_eq, if_pos hroom.1, if_pos hdepth, if_pos hroom.2.1, if_pos (hroom.2.1.trans hroom.2.2)]

/-- A body appended behind a reserved field. -/
theorem appended_reserved {kind : FieldKind} {bs : List Byte} (body : List Byte) {s : State}
    (h : s.wp.toNat + bs.length ≤ s.cap.toNat) :
    appended body (reserved kind bs s) = { appended (bs ++ body) s with pstk := ⟨s.wp, kind⟩ :: s.pstk } := by
  rw [← appended_appended h]
  rfl

/-- Closing a length byte writes the number of the bytes behind it: the field is then one append of the length and the
body (R108, R110). -/
theorem patchTop_of_body {body : List Byte} {s : State} (hlen : body.length ≤ 255) (hroom : Room s (body.length + 1)) :
    patchTop (appended body (reserved .w8 [Config.placeholder] s)) =
      .ok (appended (BitVec.ofNat 8 body.length :: body) s, body.length) := by
  obtain ⟨hnb, hfit, hcap⟩ := hroom
  have hopen := appended_reserved (kind := .w8) (bs := [Config.placeholder]) body (s := s)
    (show s.wp.toNat + 1 ≤ _ by omega)
  have hwp : (appended (Config.placeholder :: body) s).wp.toNat = s.wp.toNat + (body.length + 1) :=
    appended_wp_toNat hfit
  have hcount : patchCount ⟨s.wp, .w8⟩ (appended body (reserved .w8 [Config.placeholder] s)) = body.length := by
    rw [hopen]
    change (appended (Config.placeholder :: body) s).wp.toNat - s.wp.toNat - 1 = _
    omega
  have hread : Memory.read (appended body (reserved .w8 [Config.placeholder] s)).buf s.wp.toNat =
      some Config.placeholder := by
    rw [hopen]
    exact (appended_stored (Config.placeholder :: body) s).1 0 (Nat.succ_pos _)
  have hbuf : Memory.write (Memory.write s.buf s.wp.toNat (Config.placeholder :: body)) s.wp.toNat
      [BitVec.ofNat 8 body.length] = Memory.write s.buf s.wp.toNat (BitVec.ofNat 8 body.length :: body) :=
    write_write_inside s.buf s.wp.toNat [] [Config.placeholder] body [BitVec.ofNat 8 body.length] rfl
  have hclosed : patched ⟨s.wp, .w8⟩ s.pstk Config.placeholder (appended body (reserved .w8 [Config.placeholder] s)) =
      appended (BitVec.ofNat 8 body.length :: body) s := by
    rw [patched, hcount, hopen]
    change ({ appended (BitVec.ofNat 8 body.length :: body) s with
      buf := Memory.write (Memory.write s.buf s.wp.toNat (Config.placeholder :: body)) s.wp.toNat
        [BitVec.ofNat 8 body.length] } : State) = _
    rw [hbuf]
    rfl
  have hpatch := patchTop_of_written (s := appended body (reserved .w8 [Config.placeholder] s)) (e := ⟨s.wp, .w8⟩)
    (rest := s.pstk) hnb rfl hread (show s.wp.toNat + 1 ≤ Config.bufSize by omega)
  rw [hpatch, hcount, if_pos (show body.length ≤ maxCount .w8 from hlen), hclosed]

/-- The two-pass pattern of a descriptor is one append of its encoding (R130, R138). -/
theorem encDescriptor_of_room {tag : Byte} {p : List Byte} {s : State} (hlen : p.length ≤ 255)
    (hdepth : s.pstk.length < 8) (hroom : Room s (p.length + 2)) :
    encDescriptor ⟨tag, p⟩ s = .ok (appended (encodeTlv (tag, p)) s) := by
  obtain ⟨hnb, hfit, hcap⟩ := hroom
  have htag : s.wp.toNat + [tag].length ≤ s.cap.toNat := show s.wp.toNat + 1 ≤ _ by omega
  have hwp : (appended [tag] s).wp.toNat = s.wp.toNat + 1 := appended_wp_toNat htag
  have hbody : Room (appended [tag] s) (p.length + 1) := ⟨hnb, show _ ≤ s.cap.toNat by omega, hcap⟩
  have hfield : Room (appended [tag] s) 1 := ⟨hnb, show _ ≤ s.cap.toNat by omega, hcap⟩
  have hwpField : (reserved .w8 [Config.placeholder] (appended [tag] s)).wp.toNat = (appended [tag] s).wp.toNat + 1 :=
    appended_wp_toNat hfield.2.1
  have hpayload : Room (reserved .w8 [Config.placeholder] (appended [tag] s)) p.length :=
    ⟨hnb, show _ ≤ s.cap.toNat by omega, hcap⟩
  have hreserve : reserve8 (appended [tag] s) = .ok (reserved .w8 [Config.placeholder] (appended [tag] s)) :=
    reserve_of_room hdepth hfield
  rw [encDescriptor, appendBytes_of_room ⟨hnb, htag, hcap⟩, ok_bind, hreserve, ok_bind, appendBytes_of_room hpayload,
    ok_bind, patchTop_of_body hlen hbody]
  exact congrArg _ (appended_appended htag)

/-- The checks of DESC.ENC in their order, and its work (R138). -/
theorem exec_descEnc (tag : Byte) (p : List Byte) (s : State) :
    exec (.descEnc tag p) s = finish s (check (aligned s) (.badCommand .pendingBits) >>= fun _ =>
      check (s.pstk.length < 8) (.badCommand .patchFull) >>= fun _ => create tag p >>= fun d =>
      check (s.wp.toNat + p.length + 2 ≤ s.cap.toNat) (.bufferTooSmall (s.wp.toNat + p.length + 2)) >>= fun _ =>
      encDescriptor d s >>= fun t => .ok { state := t, value := p.length + 2 }) := rfl

/-- DESC.ENC of an admitted descriptor with room for it. -/
theorem exec_descEnc_appended {tag : Byte} {p : List Byte} {s : State} (hdepth : s.pstk.length < 8)
    (hadmit : admitError tag p = none) (hroom : Room s (p.length + 2)) :
    Appended (exec (.descEnc tag p) s) s (encodeTlv (tag, p)) (p.length + 2) := by
  have hlen := length_le_of_admitError_eq_none hadmit
  have henc := encDescriptor_of_room (tag := tag) hlen hdepth hroom
  refine ⟨(appended (encodeTlv (tag, p)) s).answered 0#3 (BitVec.ofNat 32 (p.length + 2)) [], ?_,
    appended_stored _ s, rfl⟩
  rw [exec_descEnc, check_bind, if_pos hroom.1, check_bind, if_pos hdepth, (create_ok_iff tag p).2 hadmit, ok_bind,
    check_bind, if_pos (show s.wp.toNat + p.length + 2 ≤ _ from hroom.2.1), henc,
    ← toResult_of_lt (show p.length + 2 < 2 ^ 32 by omega)]
  rfl

/-- Settles O15: the checks in their order, and then the two-pass pattern with room for it. -/
theorem descEncAppendsTheEncoding : Obligations.DescEncAppendsTheEncoding := by
  intro s tag p
  refine ⟨fun hp => withBytes_bigEndian hp _, ?_⟩
  have hexec := exec_descEnc tag p s
  split_ifs with hnb hdepth hadmit hcap
  · rw [hexec, check_bind, if_neg hnb]
    rfl
  · rw [hexec, check_bind, if_pos (not_not.1 hnb), check_bind, if_neg (by omega)]
    rfl
  · rw [hexec, check_bind, if_pos (not_not.1 hnb), check_bind, if_pos (by omega)]
    exact finish_create_bind fun h => absurd h hadmit
  · rw [hexec, check_bind, if_pos (not_not.1 hnb), check_bind, if_pos (by omega),
      (create_ok_iff tag p).2 (not_not.1 hadmit), ok_bind, check_bind, if_neg (by omega)]
    rfl
  · intro hbuf
    exact exec_descEnc_appended (by omega) (not_not.1 hadmit) ⟨not_not.1 hnb, by omega, hbuf⟩

/-! ### The three commands together (R140) -/

theorem admitted_of_admitError_eq_none {tag : Byte} {p : List Byte} (h : admitError tag p = none) (s ok : State) :
    admitted tag p s ok = ok := by
  rw [admitted, h]

/-- DESC.SIZE ends with OK where `create` succeeds. -/
theorem descSize_ok_iff (tag : Byte) (p : List Byte) (s : State) :
    (∃ t : State, exec (.descSize tag p) s = .next t ∧ t.status = 0#3) ↔ create tag p = .ok ⟨tag, p⟩ := by
  rw [exec_descSize]
  rcases create_cases tag p with ⟨hcreate, hadmit, -⟩ | ⟨e, hcreate, hadmit⟩
  · simp [admitted, hadmit, hcreate]
  · simp [admitted, hadmit, hcreate, statusCode_ne_zero]

theorem decodeCheck_encodeTlv (k : Byte) {c : Kind} {p : List Byte} (hlen : p.length ≤ 255)
    (hwf : wfKind c p = true) : decodeCheck k c (encodeTlv (k, p)) = .ok p.length := by
  have hbyte : (BitVec.ofNat 8 p.length).toNat = p.length := Nat.mod_eq_of_lt (by omega)
  refine (decodeCheck_cons_cons k (BitVec.ofNat 8 p.length) c p).trans ?_
  rw [hbyte, if_pos (show (k :: BitVec.ofNat 8 p.length :: p).length = p.length + 2 from rfl), if_pos hwf]

/-- DESC.DEC accepts the encoding of an admitted descriptor. -/
theorem exec_descDec_encodeTlv {tag : Byte} {p : List Byte} (hadmit : admitError tag p = none) (s : State) :
    exec (.descDec tag (encodeTlv (tag, p))) s = .next (s.answered 0#3 (BitVec.ofNat 32 p.length) []) := by
  have hlen := length_le_of_admitError_eq_none hadmit
  unfold admitError at hadmit
  split_ifs at hadmit with hunknown hlong hnone
  rcases lookup_cases tag with ⟨-, c, hlookup, hparse⟩ | ⟨hunknown', -⟩
  · have hwf : wfKind c p = true := by
      rw [← hparse]
      simpa [Option.isSome_iff_ne_none] using hnone
    rw [exec_descDec hlookup, decodeCheck_encodeTlv tag hlen hwf, ← toResult_of_lt (show p.length < 2 ^ 32 by omega)]
    rfl
  · exact absurd hunknown' hunknown

/-- Settles O17: what each of the three commands answers where `create` admits the payload. -/
theorem descriptorCommandsAgree : Obligations.DescriptorCommandsAgree := by
  intro tag p
  refine ⟨descSize_ok_iff tag p, fun hcreate s => ?_⟩
  have hadmit := (create_ok_iff tag p).1 hcreate
  have hlen := length_le_of_admitError_eq_none hadmit
  have hresult : (BitVec.ofNat 32 (p.length + 2)).toNat = p.length + 2 := Nat.mod_eq_of_lt (by omega)
  refine ⟨_, exec_descSize tag p s, ?_, exec_descDec_encodeTlv hadmit s⟩
  rw [admitted_of_admitError_eq_none hadmit, answered_result, hresult]
  exact fun hdepth hroom => ⟨_, rfl, rfl, exec_descEnc_appended hdepth hadmit hroom⟩

end Sys2Proof.Machine
end

section
/-! PROOFS. The descriptor registry (spec 43_registry.md): the three arms of `lookup`. -/

namespace Sys2Proof.Machine

/-- Settles O12: the statement's table is `registry`, and an unregistered tag is judged by its range alone (R191). -/
theorem lookupHasThreeArms : Obligations.LookupHasThreeArms := by
  intro tag
  refine ⟨fun _ hmem => lookup_of_mem_registry hmem, fun hreg hopaque => ?_, fun hreg hbelow => ?_⟩
  · rw [lookup_of_not_registered hreg, if_pos hopaque]
  · rw [lookup_of_not_registered hreg, if_neg (Nat.not_le.2 hbelow)]

end Sys2Proof.Machine
end

section
/-! PROOFS. The commands that build a section (spec 44_section_assembler.md R200 to R205): their checks in order, and the
lists they extend. -/

namespace Sys2Proof.Machine

/-! ### Frames and the precondition of the section commands -/

theorem decodeFrame_secAdde (tsId onId : Half) :
    decodeFrame (0x32#8 :: (be16 tsId ++ be16 onId)) = .ok (.secAdde tsId onId) := by
  change Except.ok (Instr.secAdde (u16 _ _) (u16 _ _)) = _
  rw [u16_extractLsb', u16_extractLsb']

theorem decodeFrame_secInit (tableId : Byte) (networkId : Half) (version : Byte) (pid : Half) :
    decodeFrame (0x30#8 :: tableId :: (be16 networkId ++ version :: be16 pid)) =
      .ok (.secInit tableId networkId version pid) := by
  change Except.ok (Instr.secInit _ (u16 _ _) _ (u16 _ _)) = _
  rw [u16_extractLsb', u16_extractLsb']

theorem decodeFrame_entAddd (h : Half) (tag : Byte) {p : List Byte} (hp : p.length ≤ 65535) :
    decodeFrame (0x33#8 :: (be16 h ++ tag :: (bigEndian 2 p.length ++ p))) = .ok (.entAddd h tag p) := by
  change withBytes _ (Instr.entAddd (u16 _ _) tag) = _
  rw [u16_extractLsb', withBytes_bigEndian hp]

theorem decodeFrame_secEnc (cap : Half) : decodeFrame (0x35#8 :: be16 cap) = .ok (.secEnc cap) := by
  change Except.ok (Instr.secEnc (u16 _ _)) = _
  rw [u16_extractLsb']

/-- A command whose precondition is S.valid = 1 answers BadCommand(7), or goes on (R201 to R205). -/
theorem finish_sectionOpen_bind (s : State) (f : Unit → Except Stop Done) :
    finish s (sectionOpen s >>= f) = if s.valid = true then finish s (f ()) else .next (s.badCommand 7) := by
  rw [sectionOpen, check_bind]
  split <;> rfl

/-! ### SEC.INIT (R200) -/

/-- The low bits of a word. -/
theorem extractLsb'_zero_eq_ofNat {m : Nat} (v : BitVec m) (k : Nat) :
    v.extractLsb' 0 k = BitVec.ofNat k v.toNat := by
  rw [extractLsb'_eq_ofNat_div, pow_zero, Nat.div_one]

/-- Settles O18: the range check of R72, then the four registers and the empty lists. -/
theorem secInitStartsAnEmptySection : Obligations.SecInitStartsAnEmptySection := by
  intro s tableId networkId version pid
  refine ⟨decodeFrame_secInit tableId networkId version pid, ?_⟩
  have hexec : exec (.secInit tableId networkId version pid) s =
      finish s (inRange (version.toNat ≤ 31 ∧ pid.toNat ≤ 0x1FFF) >>= _) := rfl
  rw [hexec, inRange_bind]
  split
  next =>
    have hzero : toResult 0 = 0#32 := toResult_of_lt (by decide)
    rw [← extractLsb'_zero_eq_ofNat, ← extractLsb'_zero_eq_ofNat, ← hzero]
    rfl
  next => rfl

/-! ### Adding to the lists (R201 to R203) -/

/-- Settles O19: the precondition, then `create`, then the longer list. -/
theorem secAdddAppendsADescriptor : Obligations.SecAdddAppendsADescriptor := by
  intro s tag p
  have hexec : exec (.secAddd tag p) s = finish s (sectionOpen s >>= fun _ => create tag p >>= _) := rfl
  refine ⟨fun hp => withBytes_bigEndian hp _, toResult (s.descs.length + 1), toResult_of_lt, ?_⟩
  rw [hexec, finish_sectionOpen_bind]
  split
  next => exact finish_create_bind fun _ => rfl
  next => rfl

/-- Settles O20: the precondition, then the longer list; the handle is its old length. -/
theorem secAddeReturnsTheHandle : Obligations.SecAddeReturnsTheHandle := by
  intro s tsId onId
  have hexec : exec (.secAdde tsId onId) s = finish s (sectionOpen s >>= _) := rfl
  refine ⟨decodeFrame_secAdde tsId onId, toResult s.ents.length, toResult_of_lt, ?_⟩
  rw [hexec, finish_sectionOpen_bind]
  split <;> rfl

/-- The entity of a handle gets the descriptor, and those before and behind it stay as they are (R203). -/
theorem addToEntity_eq_take_cons_drop {h : Nat} {e : Entity} {es : List Entity} (he : es[h]? = some e)
    (d : Descriptor) :
    addToEntity h d es = es.take h ++ Entity.mk e.tsId e.onId (e.descs ++ [d]) :: es.drop (h + 1) := by
  obtain ⟨hlt, rfl⟩ := List.getElem?_eq_some_iff.1 he
  exact List.modify_eq_take_cons_drop hlt

/-- ENT.ADDD with a handle that names no entity (R203). -/
theorem exec_entAddd_of_none {s : State} (hvalid : s.valid = true) {h : Half} (he : s.ents[h.toNat]? = none)
    (tag : Byte) (p : List Byte) : exec (.entAddd h tag p) s = .next (s.badCommand 3) := by
  change finish s (sectionOpen s >>= _) = _
  rw [finish_sectionOpen_bind, if_pos hvalid, he]
  rfl

/-- ENT.ADDD with the handle of an entity: its work is `create` and the longer list (R203). -/
theorem exec_entAddd_of_some {s : State} (hvalid : s.valid = true) {h : Half} {e : Entity}
    (he : s.ents[h.toNat]? = some e) (tag : Byte) (p : List Byte) :
    exec (.entAddd h tag p) s = finish s (create tag p >>= fun d => .ok {
      state := { s with ents := addToEntity h.toNat d s.ents, encValid := false }
      value := e.descs.length + 1 }) := by
  change finish s (sectionOpen s >>= _) = _
  rw [finish_sectionOpen_bind, if_pos hvalid, he]
  rfl

/-- Settles O21: the precondition, the handle and `create` in this order, then the longer list of the one entity. -/
theorem entAdddExtendsOneEntity : Obligations.EntAdddExtendsOneEntity := by
  intro s h tag p
  refine ⟨decodeFrame_entAddd h tag, ?_⟩
  split
  next hvalid =>
    refine ⟨fun hlen => exec_entAddd_of_none hvalid (List.getElem?_eq_none hlen) tag p, fun e he => ?_⟩
    refine ⟨toResult (e.descs.length + 1), toResult_of_lt, ?_⟩
    rw [exec_entAddd_of_some hvalid he, ← addToEntity_eq_take_cons_drop he]
    exact finish_create_bind fun _ => rfl
  next hclosed =>
    change finish s (sectionOpen s >>= _) = _
    rw [finish_sectionOpen_bind, if_neg hclosed]

/-! ### SEC.SIZE (R204, R205) -/

/-- Settles O22: the precondition, and then the size of R204, with the state as it was. -/
theorem secSizeIsTheEncodedSize : Obligations.SecSizeIsTheEncodedSize := by
  intro s
  have hexec : exec .secSize s = finish s (sectionOpen s >>= _) := rfl
  refine ⟨rfl, toResult (secSize Config.entityDescLen s), toResult_of_lt, ?_⟩
  rw [hexec, finish_sectionOpen_bind]
  split <;> rfl

end Sys2Proof.Machine
end

section
/-! PROOFS. SEC.ENC (spec 44_section_assembler.md R206): each of its sub-steps appends a part of the section of R78,
and so together they leave the whole of it on the emptied BUF. -/

namespace Sys2Proof.Machine

/-! ### Lengths of the parts of a section (R78, R79, R204) -/

@[simp] theorem length_lengthWordBytes (flags : BitVec 4) (count : BitVec 12) :
    (lengthWordBytes flags count).length = 2 := rfl

@[simp] theorem length_descsBytes (ds : List Descriptor) : (descsBytes ds).length = dsize ds := by
  simp only [descsBytes, List.length_flatMap]
  rfl

@[simp] theorem length_entityRecord (edl : Bool) (e : Entity) : (entityRecord edl e).length = entitySize edl e := by
  have hheader : (entityHeaderBytes e.tsId e.onId).length = 4 := rfl
  rw [entityRecord, entitySize, List.length_append, List.length_append, hheader, length_descsBytes]
  cases edl <;> rfl

@[simp] theorem length_flatMap_entityRecord (edl : Bool) (es : List Entity) :
    (es.flatMap (entityRecord edl)).length = entitiesSize edl es := by
  simp [entitiesSize, List.length_flatMap]

theorem length_sectionBody (edl : Bool) (s : State) : (sectionBody edl s).length + 4 = secSize edl s := by
  have hheader (len : BitVec 12) : (sectionHeaderBytes s.tableId len s.networkId s.version).length = 8 := rfl
  simp only [sectionBody, List.length_append, hheader, length_lengthWordBytes, length_descsBytes,
    length_flatMap_entityRecord, secSize, entitiesSize, Config.crcLen]
  omega

theorem length_sectionLayout (edl : Bool) (s : State) : (sectionLayout edl s).length = secSize edl s := by
  rw [sectionLayout, List.length_append]
  exact length_sectionBody edl s

/-! ### Sub-steps that append -/

/-- Behind whatever has been appended so far, `f` appends exactly `bs`, with at most `k` length fields open at once. -/
def Emits (k : Nat) (f : State → Except Stop State) (bs : List Byte) : Prop :=
  ∀ (s : State) (xs : List Byte), s.pstk.length + k ≤ 8 → Room s (xs.length + bs.length) →
    f (appended xs s) = .ok (appended (xs ++ bs) s)

/-- The room left behind appended bytes. -/
theorem room_appended {s : State} {xs : List Byte} {n : Nat} (h : Room s (xs.length + n)) :
    Room (appended xs s) n := by
  obtain ⟨hnb, hfit, hcap⟩ := h
  refine ⟨hnb, ?_, hcap⟩
  rw [appended_wp_toNat (by omega)]
  change _ ≤ s.cap.toNat
  omega

/-- Room for more is room for less. -/
theorem room_mono {s : State} {m n : Nat} (h : Room s n) (hmn : m ≤ n) : Room s m :=
  ⟨h.1, by have := h.2.1; omega, h.2.2⟩

theorem emits_ok (k : Nat) : Emits k .ok [] := fun s xs _ _ => by rw [List.append_nil]

theorem Emits.bind {k : Nat} {f g : State → Except Stop State} {as bs : List Byte} (hf : Emits k f as)
    (hg : Emits k g bs) : Emits k (fun s => f s >>= g) (as ++ bs) := by
  intro s xs hdepth hroom
  rw [List.length_append] at hroom
  have hfirst := hf s xs hdepth (room_mono hroom (by omega))
  have hsecond := hg s (xs ++ as) hdepth (room_mono hroom (by rw [List.length_append]; omega))
  change f (appended xs s) >>= g = _
  rw [hfirst, ok_bind, hsecond, List.append_assoc]

theorem emits_appendBytes (k : Nat) (bs : List Byte) : Emits k (appendBytes bs) bs := by
  intro s xs _ hroom
  have hxs : s.wp.toNat + xs.length ≤ s.cap.toNat := (room_mono hroom (Nat.le_add_right _ _)).2.1
  rw [appendBytes_of_room (room_appended hroom), appended_appended hxs]

theorem emits_encDescriptor {k : Nat} {d : Descriptor} (hd : d.payload.length ≤ 255) :
    Emits (k + 1) (encDescriptor d) (encodeTlv (d.tag, d.payload)) := by
  intro s xs hdepth hroom
  have hxs : s.wp.toNat + xs.length ≤ s.cap.toNat := (room_mono hroom (Nat.le_add_right _ _)).2.1
  have hfree : (appended xs s).pstk.length < 8 := show s.pstk.length < 8 by omega
  have henc := encDescriptor_of_room (tag := d.tag) hd hfree (room_appended hroom)
  rw [henc, appended_appended hxs]

theorem emits_encDescriptors {k : Nat} {ds : List Descriptor} (hds : ∀ d ∈ ds, d.payload.length ≤ 255) :
    Emits (k + 1) (encDescriptors ds) (descsBytes ds) := by
  induction ds with
  | nil => exact emits_ok _
  | cons d ds ih =>
    exact (emits_encDescriptor (hds d List.mem_cons_self)).bind (ih fun x hx => hds x (List.mem_cons_of_mem _ hx))

/-! ### A body behind its 12-bit length word (R109 to R111) -/

/-- What `reserve12` writes: the flags over a placeholder count. -/
def openWord (hi : BitVec 4) : List Byte := [(hi ++ 0#4 : BitVec (4 + 4)), Config.placeholder]

/-- The two-pass pattern of a length word around the sub-steps `f`. -/
def withWord (hi : BitVec 4) (f : State → Except Stop State) (s : State) : Except Stop State :=
  reserve12 hi s >>= fun t => f t >>= fun t => patchTop t >>= fun r => .ok r.1

/-- Closing a length word keeps the flags that were reserved with it. -/
theorem closedField_openWord (hi : BitVec 4) (n : Nat) :
    closedField .w12 (hi ++ 0#4 : BitVec (4 + 4)) n = lengthWordBytes hi (BitVec.ofNat 12 n) := by
  have hflags : (hi ++ 0#4 : BitVec (4 + 4)).extractLsb' 4 4 = hi := by
    apply BitVec.eq_of_toNat_eq
    rw [extractLsb'_eq_ofNat_div, toNat_append_eq_mul_add, BitVec.toNat_ofNat, BitVec.toNat_ofNat]
    omega
  rw [closedField, hflags]

/-- Closing a length word writes the number of the bytes behind it: the field is then one append of the word and the
body (R109, R110). -/
theorem patchTop_of_wordBody {hi : BitVec 4} {body : List Byte} {s : State} (hroom : Room s (2 + body.length)) :
    patchTop (appended (openWord hi ++ body) { s with pstk := ⟨s.wp, .w12⟩ :: s.pstk }) =
      .ok (appended (lengthWordBytes hi (BitVec.ofNat 12 body.length) ++ body) s, body.length) := by
  obtain ⟨hnb, hfit, hcap⟩ := hroom
  have hsize : s.wp.toNat + (2 + body.length) ≤ 4096 := hfit.trans hcap
  generalize ht : appended (openWord hi ++ body) { s with pstk := ⟨s.wp, .w12⟩ :: s.pstk } = t
  have hlen : (openWord hi ++ body).length = 2 + body.length := by rw [List.length_append]; rfl
  have hwp : t.wp.toNat = s.wp.toNat + (2 + body.length) := by
    rw [← ht, ← hlen]
    exact appended_wp_toNat (by rw [hlen]; exact hfit)
  have hcount : patchCount ⟨s.wp, .w12⟩ t = body.length := by
    change t.wp.toNat - s.wp.toNat - 2 = _
    omega
  have hread : Memory.read t.buf s.wp.toNat = some (hi ++ 0#4 : BitVec (4 + 4)) := by
    rw [← ht]
    exact (appended_stored (openWord hi ++ body) _).1 0 (by rw [hlen]; omega)
  have hbuf (word : List Byte) (hword : word.length = 2) :
      Memory.write (Memory.write s.buf s.wp.toNat (openWord hi ++ body)) s.wp.toNat word =
        Memory.write s.buf s.wp.toNat (word ++ body) :=
    write_write_inside s.buf s.wp.toNat [] (openWord hi) body word hword
  have hclosed : patched ⟨s.wp, .w12⟩ s.pstk (hi ++ 0#4 : BitVec (4 + 4)) t =
      appended (lengthWordBytes hi (BitVec.ofNat 12 body.length) ++ body) s := by
    rw [patched, hcount, closedField_openWord, ← ht]
    change ({ appended (lengthWordBytes hi (BitVec.ofNat 12 body.length) ++ body) s with
      buf := Memory.write (Memory.write s.buf s.wp.toNat (openWord hi ++ body)) s.wp.toNat
        (lengthWordBytes hi (BitVec.ofNat 12 body.length)) } : State) = _
    rw [hbuf _ rfl]
    rfl
  have hpatch := patchTop_of_written (s := t) (e := ⟨s.wp, .w12⟩) (rest := s.pstk) (by rw [← ht]; exact hnb)
    (by rw [← ht]; rfl) hread (show s.wp.toNat + 2 ≤ 4096 by omega)
  rw [hpatch, hcount, if_pos (show body.length ≤ maxCount .w12 from show _ ≤ 4095 by omega), hclosed]

/-- The two-pass pattern appends the body behind the word that holds its length. -/
theorem Emits.withWord {k : Nat} {f : State → Except Stop State} {bs : List Byte} (hf : Emits k f bs)
    (hi : BitVec 4) : Emits (k + 1) (withWord hi f) (lengthWordBytes hi (BitVec.ofNat 12 bs.length) ++ bs) := by
  intro s xs hdepth hroom
  rw [List.length_append, length_lengthWordBytes] at hroom
  have hxs : s.wp.toNat + xs.length ≤ s.cap.toNat := (room_mono hroom (Nat.le_add_right _ _)).2.1
  have hrest : Room (appended xs s) (2 + bs.length) := room_appended hroom
  have hfree : (appended xs s).pstk.length < 8 := show s.pstk.length < 8 by omega
  have hreserve : reserve12 hi (appended xs s) =
      .ok (appended (openWord hi)
        { appended xs s with pstk := ⟨(appended xs s).wp, .w12⟩ :: (appended xs s).pstk }) :=
    reserve_of_room (bs := openWord hi) hfree (room_mono hrest (Nat.le_add_right _ _))
  have hbody := hf { appended xs s with pstk := ⟨(appended xs s).wp, .w12⟩ :: (appended xs s).pstk } (openWord hi)
    (show s.pstk.length + 1 + k ≤ 8 by omega) hrest
  rw [Machine.withWord, hreserve, ok_bind, hbody, ok_bind, patchTop_of_wordBody hrest, ok_bind, appended_appended hxs]

/-! ### The entities and the whole section -/

theorem emits_encEntity (edl : Bool) {k : Nat} {e : Entity} (he : ∀ d ∈ e.descs, d.payload.length ≤ 255) :
    Emits (k + 2) (encEntity edl e) (entityRecord edl e) := by
  have hheader := emits_appendBytes (k + 2) (entityHeaderBytes e.tsId e.onId)
  cases edl with
  | false => exact hheader.bind (emits_encDescriptors he)
  | true =>
    have hdescs := (emits_encDescriptors (k := k) he).withWord Config.rsv4
    rw [length_descsBytes] at hdescs
    rw [entityRecord, if_pos rfl, List.append_assoc]
    exact hheader.bind hdescs

theorem emits_encEntities (edl : Bool) {k : Nat} {es : List Entity}
    (hes : ∀ e ∈ es, ∀ d ∈ e.descs, d.payload.length ≤ 255) :
    Emits (k + 2) (encEntities edl es) (es.flatMap (entityRecord edl)) := by
  induction es with
  | nil => exact emits_ok _
  | cons e es ih =>
    exact (emits_encEntity edl (hes e List.mem_cons_self)).bind (ih fun x hx => hes x (List.mem_cons_of_mem _ hx))

/-- The sub-steps of SEC.ENC up to the CRC trailer, after the emptying of BUF (R206). -/
def encBody (edl : Bool) (s t : State) : Except Stop State :=
  appendBytes (sectionHeaderBytes s.tableId (BitVec.ofNat 12 (secSize edl s - 3)) s.networkId s.version) t >>=
    withWord Config.rsv4 (encDescriptors s.descs) >>= withWord Config.rsv4 (encEntities edl s.ents)

/-- SEC.ENC after its checks: the body, and then its CRC read off BUF. -/
theorem encSection_eq (edl : Bool) (cap : Half) (s : State) :
    encSection edl cap (secSize edl s) s = encBody edl s (asmClear cap s) >>= fun t =>
      bufRead 0 t.wp.toNat t >>= fun m => appendBytes (be32 (crc32 m)) t >>= fun u =>
        .ok { u with encValid := true, encLen := BitVec.ofNat 16 (secSize edl s) } := by
  simp only [encBody, withWord, bind_assoc]
  rfl

/-- Every stored payload fits its 8-bit length (R23). -/
abbrev PayloadsFit (s : State) : Prop :=
  (∀ d ∈ s.descs, d.payload.length ≤ 255) ∧ ∀ e ∈ s.ents, ∀ d ∈ e.descs, d.payload.length ≤ 255

theorem emits_encBody (edl : Bool) {s : State} (hs : PayloadsFit s) :
    Emits 3 (encBody edl s) (sectionBody edl s) := by
  have hheader := emits_appendBytes 3
    (sectionHeaderBytes s.tableId (BitVec.ofNat 12 (secSize edl s - 3)) s.networkId s.version)
  have hdescs := (emits_encDescriptors (k := 1) hs.1).withWord Config.rsv4
  have hents := (emits_encEntities edl (k := 0) hs.2).withWord Config.rsv4
  rw [length_descsBytes] at hdescs
  rw [length_flatMap_entityRecord] at hents
  have hbody := (hheader.bind hdescs).bind hents
  rw [← List.append_assoc, ← List.append_assoc] at hbody
  exact hbody

/-- What has been appended to the emptied BUF is what a read of it finds. -/
theorem readBytes_appended_asmClear (bs : List Byte) (cap : Half) (s : State) :
    Memory.readBytes (appended bs (asmClear cap s)).buf 0 bs.length = some bs := readBytes_write [] 0 bs

/-- The sub-steps of SEC.ENC with room for the section: it stands alone in BUF (R78, R206). -/
theorem encSection_of_room (edl : Bool) {cap : Half} {s : State} (hs : PayloadsFit s)
    (hcap : cap.toNat ≤ Config.bufSize) (hfit : secSize edl s ≤ cap.toNat) :
    encSection edl cap (secSize edl s) s =
      .ok { appended (sectionLayout edl s) (asmClear cap s) with
            encValid := true, encLen := BitVec.ofNat 16 (secSize edl s) } := by
  have hlen := length_sectionBody edl s
  have hroom (n : Nat) (hn : n ≤ secSize edl s) : Room (asmClear cap s) n :=
    ⟨rfl, show 0 + n ≤ cap.toNat by omega, hcap⟩
  have hbody : encBody edl s (asmClear cap s) = .ok (appended (sectionBody edl s) (asmClear cap s)) :=
    emits_encBody edl hs (asmClear cap s) [] (show 0 + 3 ≤ 8 by omega) (hroom _ (show 0 + _ ≤ _ by omega))
  have hwp : (appended (sectionBody edl s) (asmClear cap s)).wp.toNat = (sectionBody edl s).length :=
    (appended_wp_toNat (hroom _ (by omega)).2.1).trans (Nat.zero_add _)
  have hread := (bufRead_ok_iff _ _ _ _).2 (readBytes_appended_asmClear (sectionBody edl s) cap s)
  have htrailer := emits_appendBytes 0 (be32 (crc32 (sectionBody edl s))) (asmClear cap s) (sectionBody edl s)
    (Nat.zero_le _) (hroom _ hlen.le)
  rw [encSection_eq, hbody, ok_bind, hwp, hread, ok_bind, htrailer, ok_bind, sectionLayout]

/-! ### The command -/

/-- The checks of SEC.ENC in their order, and its work (R206). -/
theorem exec_secEnc (cap : Half) (s : State) :
    exec (.secEnc cap) s =
      if cap.toNat ≤ 4096 then
        if s.valid = true then
          if secSize Config.entityDescLen s ≤ 1024 then
            if secSize Config.entityDescLen s ≤ cap.toNat then
              finish s (encSection Config.entityDescLen cap (secSize Config.entityDescLen s) s >>= fun t =>
                .ok { state := t, value := secSize Config.entityDescLen s })
            else .next (s.answered 3#3 (BitVec.ofNat 32 (secSize Config.entityDescLen s)) [])
          else .next (s.answered 4#3 (BitVec.ofNat 32 (secSize Config.entityDescLen s)) [])
        else .next (s.badCommand 7)
      else .next (s.badCommand 3) := by
  change finish s (inRange (cap.toNat ≤ 4096) >>= fun _ => sectionOpen s >>= fun _ =>
    check (secSize Config.entityDescLen s ≤ 1024) _ >>= fun _ =>
      check (secSize Config.entityDescLen s ≤ cap.toNat) _ >>= _) = _
  rw [inRange_bind]
  split
  next =>
    rw [finish_sectionOpen_bind, check_bind, check_bind]
    split_ifs <;> rfl
  next => rfl

/-- The answer of SEC.ENC on a BUF that holds the section's bytes alone. -/
theorem complete_appended_asmClear (bs : List Byte) (cap : Half) (s : State) (hlen : bs.length ≤ 1024) :
    complete bs.length [] { appended bs (asmClear cap s) with
      encValid := true, encLen := BitVec.ofNat 16 bs.length } =
      s.sectionDone cap bs.length (Memory.write [] 0 bs) := by
  have hwp : BitVec.ofNat 16 ((0#16 : Half).toNat + bs.length) = BitVec.ofNat 16 bs.length :=
    congrArg _ (Nat.zero_add _)
  rw [complete_eq_answered, toResult_of_lt (by omega), State.sectionDone, ← hwp]
  rfl

/-- SEC.ENC after its checks answers the section size and leaves the section in BUF, and nothing behind it (R206). -/
theorem exec_secEnc_of_ready {cap : Half} {s : State} (h : SecReady cap s) :
    exec (.secEnc cap) s = .next (s.sectionDone cap (secSize Config.entityDescLen s)
      (Memory.write [] 0 (sectionLayout Config.entityDescLen s))) := by
  obtain ⟨hcap, hvalid, hmax, hfit, hdescs, hents⟩ := h
  have hlen := length_sectionLayout Config.entityDescLen s
  rw [exec_secEnc, if_pos hcap, if_pos hvalid, if_pos hmax, if_pos hfit,
    encSection_of_room _ ⟨hdescs, hents⟩ hcap hfit, ok_bind, ← hlen]
  exact congrArg Host.Outcome.next (complete_appended_asmClear _ cap s (hlen.trans_le hmax))

/-- Settles O23: the four checks in their order, and then the sub-steps of R206, which append the layout of R78. -/
theorem secEncWritesTheSection : Obligations.SecEncWritesTheSection := by
  intro s cap
  refine ⟨decodeFrame_secEnc cap, ?_⟩
  have hexec := exec_secEnc cap s
  intro n
  split_ifs with hcap hvalid hmax hfit
  · rw [hexec, if_neg (Nat.not_le.2 hcap)]
  · rw [hexec, if_pos (Nat.not_lt.1 hcap), if_neg (ne_true_of_eq_false hvalid)]
  · rw [hexec, if_pos (Nat.not_lt.1 hcap), if_pos (eq_true_of_ne_false hvalid), if_neg (Nat.not_le.2 hmax)]
  · rw [hexec, if_pos (Nat.not_lt.1 hcap), if_pos (eq_true_of_ne_false hvalid), if_pos (Nat.not_lt.1 hmax),
      if_neg (Nat.not_le.2 hfit)]
  · intro hready
    have hlen : (sectionLayout Config.entityDescLen s).length = n := length_sectionLayout _ s
    refine ⟨_, exec_secEnc_of_ready hready, ?_, hlen, fun a ha => ?_⟩
    · rw [← hlen]
      exact readBytes_write [] 0 _
    · rw [read_write_other _ _ _ _ (.inr (by omega)), read_nil]

end Sys2Proof.Machine
end

section
/-! PROOFS. The CRC engine (spec 45_crc32.md R230 to R238). One shift of the register is linear over exclusive-or, and a
message bit may enter at the top of the register any time before the shift that consumes it: the byte-at-a-time form, the
table-driven form and the residue law follow. -/

namespace Sys2Proof.Machine

/-! ### The register as a number (R230, R234) -/

/-- The bit that leaves the register. -/
theorem msb_eq_decide_div_mod (c : Word) : c.msb = decide (c.toNat / 2 ^ 31 % 2 = 1) := by
  rw [BitVec.msb_eq_getLsbD_last, BitVec.getLsbD, Nat.testBit_eq_decide_div_mod_eq]

/-- A shifted register as a number. -/
theorem toNat_shiftLeft_one (c : Word) : (c <<< 1).toNat = c.toNat * 2 % 2 ^ 32 := by
  rw [BitVec.toNat_shiftLeft, Nat.shiftLeft_eq, pow_one]

/-- One shift with its feedback bit, as the rules write it on numbers. -/
theorem toNat_shift_feedback {fb : Bool} {p : Prop} [Decidable p] (c : Word) (h : fb = decide p) :
    (if fb then c <<< 1 ^^^ Config.crcPoly else c <<< 1 : Word).toNat =
      if p then (c.toNat * 2 % 2 ^ 32) ^^^ 0x04C11DB7 else c.toNat * 2 % 2 ^ 32 := by
  simp only [h, decide_eq_true_eq]
  split
  next => rw [BitVec.toNat_xor, toNat_shiftLeft_one]; rfl
  next => exact toNat_shiftLeft_one c

/-- One message bit in the rule's own arithmetic. -/
theorem toNat_crcBit (c : Word) (b : Byte) (i : Nat) :
    (crcBit c (b.getLsbD i)).toNat = crcSpecBit b.toNat c.toNat i := by
  refine toNat_shift_feedback c ?_
  rw [msb_eq_decide_div_mod, BitVec.getLsbD, Nat.testBit_eq_decide_div_mod_eq, Nat.add_mod]
  rcases Nat.mod_two_eq_zero_or_one (c.toNat / 2 ^ 31) with hc | hc <;>
    rcases Nat.mod_two_eq_zero_or_one (b.toNat / 2 ^ i) with hb | hb <;> rw [hc, hb] <;> rfl

/-- One message byte in the rule's own arithmetic. -/
theorem toNat_crcByte (c : Word) (b : Byte) :
    (crcByte c b).toNat = [7, 6, 5, 4, 3, 2, 1, 0].foldl (crcSpecBit b.toNat) c.toNat := by
  simp only [crcByte, crcIn_eq, bitsOf, List.foldl_cons, List.foldl_nil, toNat_crcBit]

/-- No final inversion: CRC_XOROUT is 0. -/
theorem crc32_eq_register (m : List Byte) : crc32 m = m.foldl crcByte Config.crcInit := by
  rw [crc32_eq_foldl, BitVec.xor_zero]

/-- Settles O25, byte by byte along the message. -/
theorem crcIsBitSerial : Obligations.CrcIsBitSerial := by
  intro m
  rw [crc32_eq_register]
  exact (List.foldl_hom BitVec.toNat fun c b => (toNat_crcByte c b).symm).symm

/-- One shift in the generator's own arithmetic. -/
theorem toNat_crcShift (c : Word) : (crcShift c).toNat = crcSpecShift c.toNat :=
  toNat_shift_feedback c (msb_eq_decide_div_mod c)

/-! ### Shifts are linear -/

/-- A shift adds CRC_POLY where a one bit leaves the register. -/
theorem crcShift_eq_xor (c : Word) : crcShift c = c <<< 1 ^^^ bif c.msb then Config.crcPoly else 0#32 := by
  unfold crcShift
  cases c.msb
  · exact BitVec.xor_zero.symm
  · rfl

theorem crcShift_xor (x y : Word) : crcShift (x ^^^ y) = crcShift x ^^^ crcShift y := by
  have hpoly : (bif x.msb ^^ y.msb then Config.crcPoly else 0#32) =
      (bif x.msb then Config.crcPoly else 0#32) ^^^ bif y.msb then Config.crcPoly else 0#32 := by
    cases x.msb <;> cases y.msb <;> rfl
  rw [crcShift_eq_xor, crcShift_eq_xor, crcShift_eq_xor, BitVec.msb_xor, hpoly, BitVec.shiftLeft_xor_distrib]
  ac_rfl

theorem crcShift_iterate_xor (n : Nat) (x y : Word) : crcShift^[n] (x ^^^ y) = crcShift^[n] x ^^^ crcShift^[n] y :=
  Function.Semiconj₂.iterate crcShift_xor n x y

/-- While only zero bits leave the register, the generator is a plain shift. -/
theorem crcShift_iterate_of_lt {n : Nat} {x : Word} (hn : n ≤ 32) (hx : x.toNat < 2 ^ (32 - n)) :
    crcShift^[n] x = x <<< n := by
  induction n generalizing x with
  | zero => exact (BitVec.shiftLeft_zero x).symm
  | succ n ih =>
    have hpow : 2 ^ (32 - n) = 2 ^ (32 - (n + 1)) * 2 := by rw [← pow_succ]; congr 1; omega
    have hle : 2 ^ (32 - n) ≤ 2 ^ 32 := Nat.pow_le_pow_right (by decide) (Nat.sub_le _ _)
    have hmsb : x.msb = false := by
      rw [msb_eq_decide_div_mod, Nat.div_eq_of_lt (by omega)]
      rfl
    have hone : crcShift x = x <<< 1 := by rw [crcShift_eq_xor, hmsb]; exact BitVec.xor_zero
    have hnext : (x <<< 1).toNat < 2 ^ (32 - n) := by
      rw [toNat_shiftLeft_one, Nat.mod_eq_of_lt (by omega)]
      omega
    rw [Function.iterate_succ_apply, hone, ih (by omega) hnext, ← BitVec.shiftLeft_add, Nat.add_comm 1]

/-- The eight shifts of R233 and R234. -/
theorem crcShift8_eq_iterate (c : Word) : crcShift8 c = crcShift^[8] c := rfl

theorem crcShift8_xor (x y : Word) : crcShift8 (x ^^^ y) = crcShift8 x ^^^ crcShift8 y := crcShift_iterate_xor 8 x y

/-! ### Bits waiting at the top of the register (R233) -/

/-- A message bit where the shift consumes it. -/
def topBit (b : Bool) : Word := (BitVec.ofBool b ++ 0#31 : BitVec (1 + 31))

/-- Message bits at the top of the register, the first at bit 31. -/
def topBits : List Bool → Word
  | [] => 0#32
  | b :: bs => topBit b ^^^ topBits bs >>> 1

/-- A message bit is an exclusive-or into bit 31 before the shift. -/
theorem crcShift_xor_topBit (c : Word) (b : Bool) : crcShift (c ^^^ topBit b) = crcBit c b := by
  have hmsb : (c ^^^ topBit b).msb = (c.msb ^^ b) := by
    rw [BitVec.msb_xor]
    cases b <;> rfl
  have hshift : (c ^^^ topBit b) <<< 1 = c <<< 1 := by
    rw [BitVec.shiftLeft_xor_distrib]
    cases b <;> exact BitVec.xor_zero
  rw [crcShift, hmsb, hshift, crcBit]

theorem getMsbD_topBits (bs : List Bool) {i : Nat} (hi : i < 32) : (topBits bs).getMsbD i = bs.getD i false := by
  induction bs generalizing i with
  | nil => rw [topBits, BitVec.getMsbD_zero, List.getD_nil]
  | cons b bs ih =>
    rw [topBits, BitVec.getMsbD_xor, BitVec.getMsbD_ushiftRight]
    cases i with
    | zero => cases b <;> rfl
    | succ i =>
      have htop : (topBit b).getMsbD (i + 1) = false := by
        rw [topBit, BitVec.getMsbD_append, if_pos (Nat.le_add_left 1 i), BitVec.getMsbD_zero]
      rw [htop, Nat.add_sub_cancel, ih (by omega), List.getD_cons_succ]
      simp [hi]

/-- Bits that wait behind a zero at bit 31 are brought to the top. -/
theorem crcShift_ushiftRight_one {x : Word} (h : x.getMsbD 31 = false) : crcShift (x >>> 1) = x := by
  have heven : x.toNat % 2 = 0 := by
    simpa [BitVec.getMsbD, BitVec.getLsbD, Nat.testBit_eq_decide_div_mod_eq] using h
  have hhalf : (x >>> 1).toNat = x.toNat / 2 := by
    rw [BitVec.toNat_ushiftRight, Nat.shiftRight_eq_div_pow, pow_one]
  have hshift : crcShift (x >>> 1) = x >>> 1 <<< 1 := crcShift_iterate_of_lt (n := 1) (by decide) (by omega)
  rw [hshift]
  apply BitVec.eq_of_toNat_eq
  rw [toNat_shiftLeft_one, hhalf]
  omega

/-- Bits that wait at the top of the register give what the bits give one by one. -/
theorem crcShift_iterate_xor_topBits (bs : List Bool) (c : Word) (hlen : bs.length ≤ 32) :
    crcShift^[bs.length] (c ^^^ topBits bs) = bs.foldl crcBit c := by
  induction bs generalizing c with
  | nil => exact BitVec.xor_zero
  | cons b bs ih =>
    rw [List.length_cons] at hlen
    have hlast : (topBits bs).getMsbD 31 = false := by
      rw [getMsbD_topBits bs (by decide), List.getD_eq_default _ _ (by omega)]
    rw [List.length_cons, Function.iterate_succ_apply, topBits, ← BitVec.xor_assoc, crcShift_xor, crcShift_xor_topBit,
      crcShift_ushiftRight_one hlast, ih _ (by omega), List.foldl_cons]

theorem getD_bitsOf (b : Byte) (i : Nat) : (bitsOf b).getD i false = b.getMsbD i := by
  by_cases hi : i < 8
  · interval_cases i <;> rfl
  · rw [List.getD_eq_default _ _ (Nat.le_of_not_lt hi), BitVec.getMsbD_of_ge _ _ (Nat.le_of_not_lt hi)]

theorem topBits_bitsOf (b : Byte) : topBits (bitsOf b) = topByte b := by
  refine BitVec.eq_of_getMsbD_eq fun i hi => ?_
  rw [getMsbD_topBits _ hi, getD_bitsOf, topByte, BitVec.getMsbD_append]
  split
  next h => rw [BitVec.getMsbD_of_ge _ _ h, BitVec.getMsbD_zero]
  next => rfl

/-- The byte-at-a-time step is the bit-serial step (R233). -/
theorem crcByteAtOnce_eq_crcByte (c : Word) (b : Byte) : crcByteAtOnce c b = crcByte c b := by
  unfold crcByteAtOnce crcByte
  rw [crcIn_eq, ← topBits_bitsOf]
  exact crcShift_iterate_xor_topBits (bitsOf b) c (by simp [bitsOf])

/-- Settles O27: the two engines take the same step for each byte. -/
theorem crcByteAtATime : Obligations.CrcByteAtATime := by
  intro m
  have hstep : crcByteAtOnce = crcByte := funext₂ crcByteAtOnce_eq_crcByte
  rw [hstep, crc32_eq_foldl]

/-! ### The table (R234, R235) -/

@[simp] theorem length_crcTable : crcTable.length = 256 := by
  rw [crcTable, List.length_map, List.length_range]

/-- The table, looked up. -/
theorem getElem?_crcTable (i : Byte) : crcTable[i.toNat]? = some (crcTableEntry i) := by
  rw [crcTable, List.getElem?_map, List.getElem?_range i.isLt, Option.map_some, BitVec.ofNat_toNat, BitVec.setWidth_eq]

theorem topByte_xor (i j : Byte) : topByte (i ^^^ j) = topByte i ^^^ topByte j := by
  unfold topByte
  rw [BitVec.xor_append, BitVec.xor_zero]

theorem toNat_topByte (i : Byte) : (topByte i).toNat = i.toNat * 2 ^ 24 := by
  rw [topByte, toNat_append_eq_mul_add, BitVec.toNat_ofNat, Nat.zero_mod, Nat.add_zero]

theorem topByte_shiftLeft (b : Byte) : topByte b <<< 8 = 0#32 := by
  apply BitVec.eq_of_toNat_eq
  rw [BitVec.toNat_shiftLeft, toNat_topByte, Nat.shiftLeft_eq, Nat.mul_assoc]
  exact Nat.mul_mod_left _ _

theorem extractLsb'_topByte (b : Byte) : (topByte b).extractLsb' 24 8 = b := BitVec.extractLsb'_append_eq_left

theorem crcTableEntry_xor (i j : Byte) : crcTableEntry (i ^^^ j) = crcTableEntry i ^^^ crcTableEntry j := by
  rw [crcTableEntry, topByte_xor, crcShift8_xor]
  rfl

theorem toNat_crcTableEntry (i : Byte) : (crcTableEntry i).toNat = crcSpecShift^[8] (i.toNat * 2 ^ 24) := by
  rw [← toNat_topByte]
  exact Function.Semiconj.iterate_right toNat_crcShift 8 (topByte i)

/-- Settles O28: each entry is eight shifts of its index, and the shifts are linear. -/
theorem crcTableIsLinear : Obligations.CrcTableIsLinear := by
  refine ⟨length_crcTable, getElem?_crcTable 0#8, getElem?_crcTable 1#8, fun i => ?_, fun i j x y hx hy => ?_⟩
  · rw [getElem?_crcTable, ← toNat_crcTableEntry, BitVec.ofNat_toNat, BitVec.setWidth_eq]
  · rw [getElem?_crcTable, Option.some_inj] at hx hy
    rw [getElem?_crcTable, crcTableEntry_xor, hx, hy]

/-- A register is its top byte and the 24 bits below it. -/
theorem eq_topByte_xor_low (c : Word) : ∃ low : Word, low.toNat < 2 ^ 24 ∧ low <<< 8 = c <<< 8 ∧
    c = topByte (c.extractLsb' 24 8) ^^^ low := by
  have hc : c = topByte (c.extractLsb' 24 8) ^^^ (0#8 ++ c.extractLsb' 0 24 : BitVec (8 + 24)) := by
    rw [topByte, BitVec.xor_append, BitVec.xor_zero, BitVec.zero_xor,
      BitVec.extractLsb'_append_extractLsb'_eq_extractLsb' (Nat.zero_add 24).symm, BitVec.extractLsb'_eq_self]
  refine ⟨_, ?_, ?_, hc⟩
  · rw [toNat_append_eq_mul_add]
    simpa using (c.extractLsb' 0 24).isLt
  · conv_rhs => rw [hc, BitVec.shiftLeft_xor_distrib, topByte_shiftLeft, BitVec.zero_xor]

/-- Eight shifts: the low bytes move up, and the top byte leaves its table entry (R237). -/
theorem crcShift8_eq_table (c : Word) : crcShift8 c = c <<< 8 ^^^ crcTableEntry (c.extractLsb' 24 8) := by
  obtain ⟨low, hlow, hshift, hc⟩ := eq_topByte_xor_low c
  calc crcShift8 c = crcTableEntry (c.extractLsb' 24 8) ^^^ crcShift8 low := by
        conv_lhs => rw [hc, crcShift8_xor]
        rfl
    _ = c <<< 8 ^^^ crcTableEntry (c.extractLsb' 24 8) := by
        rw [crcShift8_eq_iterate, crcShift_iterate_of_lt (by decide) hlow, hshift, BitVec.xor_comm]

/-- The table-driven step is the bit-serial step (R237). -/
theorem crcByteTable_eq_crcByte (c : Word) (b : Byte) : crcByteTable c b = crcByte c b := by
  have hlow : (c ^^^ topByte b) <<< 8 = c <<< 8 := by
    rw [BitVec.shiftLeft_xor_distrib, topByte_shiftLeft, BitVec.xor_zero]
  have htop : (c ^^^ topByte b).extractLsb' 24 8 = c.extractLsb' 24 8 ^^^ b := by
    rw [BitVec.extractLsb'_xor, extractLsb'_topByte]
  rw [← crcByteAtOnce_eq_crcByte, crcByteAtOnce, crcByteTable, crcIn_eq, crcShift8_eq_table, hlow, htop,
    List.getD_eq_getElem?_getD, getElem?_crcTable, Option.getD_some]

/-- Settles O29: the two engines take the same step for each byte. -/
theorem crcTableDrivenAgrees : Obligations.CrcTableDrivenAgrees := by
  intro m
  have hstep : crcByteTable = crcByte := funext₂ crcByteTable_eq_crcByte
  rw [crc32Table, hstep, crc32]

/-! ### The residue law (R238) -/

/-- A message byte equal to the top byte of the register cancels it. -/
theorem crcByte_extractLsb'_top (c : Word) : crcByte c (c.extractLsb' 24 8) = c <<< 8 := by
  have hzero : crcTable.getD (0#8 : Byte).toNat 0#32 = 0#32 := by
    rw [List.getD_eq_getElem?_getD, getElem?_crcTable]
    rfl
  rw [← crcByteTable_eq_crcByte, crcByteTable, crcIn_eq, BitVec.xor_self, hzero, BitVec.xor_zero]

/-- The bits that a plain shift brings to the top byte. -/
theorem extractLsb'_top_shiftLeft (c : Word) {k : Nat} (hk : k ≤ 24) :
    (c <<< k).extractLsb' 24 8 = c.extractLsb' (24 - k) 8 := by
  ext i hi
  have hlt : 24 + i < 32 := by omega
  have hge : ¬24 + i < k := by omega
  have hidx : 24 + i - k = 24 - k + i := by omega
  rw [BitVec.getElem_extractLsb', BitVec.getElem_extractLsb', BitVec.getLsbD_shiftLeft, hidx]
  simp [hlt, hge]

/-- The register's own four bytes, most significant first, bring it to zero. -/
theorem be32_foldl_crcByte (c : Word) : (be32 c).foldl crcByte c = 0#32 := by
  have h1 := crcByte_extractLsb'_top c
  have h2 := crcByte_extractLsb'_top (c <<< 8)
  have h3 := crcByte_extractLsb'_top (c <<< 16)
  have h4 := crcByte_extractLsb'_top (c <<< 24)
  rw [extractLsb'_top_shiftLeft c (by decide), ← BitVec.shiftLeft_add] at h2 h3 h4
  calc (be32 c).foldl crcByte c
      = crcByte (crcByte (crcByte (crcByte c (c.extractLsb' 24 8)) (c.extractLsb' 16 8)) (c.extractLsb' 8 8))
          (c.extractLsb' 0 8) := rfl
    _ = c <<< 32 := by rw [h1, h2, h3, h4]
    _ = 0#32 := BitVec.shiftLeft_eq_zero (Nat.le_refl 32)

/-- Settles O30: after the message the register holds the checksum, which its own bytes then bring to zero. -/
theorem crcOfMessageWithItsCrcIsZero : Obligations.CrcOfMessageWithItsCrcIsZero := by
  intro m
  rw [crc32_eq_register, crcByte_foldl_append, ← crc32_eq_register, be32_foldl_crcByte]

/-! ### CRC.CALC (R232) -/

theorem decodeFrame_crcCalc (off len : Half) :
    decodeFrame (0x40#8 :: (be16 off ++ be16 len)) = .ok (.crcCalc off len) := by
  change Except.ok (Instr.crcCalc (u16 _ _) (u16 _ _)) = _
  rw [u16_extractLsb', u16_extractLsb']

/-- CRC.CALC as its two checks, one after the other, and the read. -/
theorem exec_crcCalc (off len : Half) (s : State) :
    exec (.crcCalc off len) s =
      if s.nb = 0#3 then
        if off.toNat + len.toNat ≤ s.wp.toNat then
          finish s (bufRead off.toNat len.toNat s >>= fun m => .ok { state := s, value := (crc32 m).toNat })
        else .next (s.badCommand 6)
      else .next (s.badCommand 2) := by
  change finish s (check (aligned s) _ >>= fun _ => check _ _ >>= _) = _
  rw [check_bind, check_bind]
  split_ifs <;> rfl

/-- Settles O26: below WP the cells are there to be read, and their checksum is that of O25. -/
theorem crcCalcChecksumsARange : Obligations.CrcCalcChecksumsARange := by
  intro s off len hm
  have hexec := exec_crcCalc off len s
  refine ⟨decodeFrame_crcCalc off len, ?_⟩
  split
  next hnb => rw [hexec, if_neg hnb]
  next hnb =>
    rw [if_pos (not_not.1 hnb)] at hexec
    split
    next hpast => rw [hexec, if_neg (Nat.not_le.2 hpast)]
    next hin =>
      obtain ⟨m, hlen, hcells, hread⟩ := exists_readBytes_of_writtenUpTo hm (Nat.not_lt.1 hin)
      refine ⟨m, hlen, hcells, ?_⟩
      rw [hexec, if_pos (Nat.not_lt.1 hin), (bufRead_ok_iff _ _ _ _).2 hread, ok_bind, ← crcIsBitSerial m,
        ← toResult_of_lt (crc32 m).isLt]
      rfl

end Sys2Proof.Machine
end

section
/-! PROOFS. The packetizer (spec 46_packetizer.md R250 to R252, R256). The packets are blocks of 188 bytes put one after
another, so byte `i` of packet `k` stands in cell `188 * k + i` of OBUF; the chunks of the packets are the stream cut
into runs of 184 bytes. -/

namespace Sys2Proof.Machine

/-! ### The packet count (R250) -/

/-- R250, with the chunk size as a number. -/
theorem npkt_eq (l : Nat) : npkt l = (l + 184) / 184 := rfl

/-- The chunks hold the pointer_field and the section. -/
theorem succ_le_npkt_mul (l : Nat) : l + 1 ≤ npkt l * 184 := by
  rw [npkt_eq]
  omega

/-- Every chunk but the last is full, and the last is not empty. -/
theorem npkt_pred_mul_lt_succ (l : Nat) : (npkt l - 1) * 184 < l + 1 := by
  rw [npkt_eq]
  omega

theorem npkt_pos (l : Nat) : 1 ≤ npkt l := Nat.div_pos (Nat.le_add_left 184 l) (by decide)

/-- A longer section takes no fewer packets. -/
theorem npkt_mono {l m : Nat} (h : l ≤ m) : npkt l ≤ npkt m := Nat.div_le_div_right (Nat.add_le_add_right h 184)

/-- Settles O32: the two halves of the division, and for the bounds the packets of the longest section. -/
theorem packetCountCoversTheSection : Obligations.PacketCountCoversTheSection := by
  refine ⟨fun l => ⟨npkt_pred_mul_lt_succ l, succ_le_npkt_mul l⟩, fun l _ hmax => ?_, rfl⟩
  have hsix : npkt l ≤ 6 := npkt_mono hmax
  exact ⟨npkt_pos l, hsix, Nat.mul_le_mul_right 188 hsix⟩

/-! ### PKT.SIZE (R251) -/

/-- A command whose precondition is ENC_VALID = 1 answers BadCommand(7), or goes on (R251, R252). -/
theorem finish_encoded_bind (s : State) (f : Unit → Except Stop Done) :
    finish s (encoded s >>= f) = if s.encValid = true then finish s (f ()) else .next (s.badCommand 7) := by
  rw [encoded, check_bind]
  split <;> rfl

/-- RESULT holds the number of packet bytes of every section that ENC_LEN can count. -/
theorem toResult_packetBytes (l : Half) : toResult (npkt l.toNat * 188) = BitVec.ofNat 32 (npkt l.toNat * 188) := by
  refine toResult_of_lt ?_
  have := npkt_pred_mul_lt_succ l.toNat
  omega

/-- Settles O33: the precondition, and then the packet bytes of ENC_LEN, with the state as it was. -/
theorem pktSizeCountsPacketBytes : Obligations.PktSizeCountsPacketBytes := by
  intro s
  have hexec : exec .pktSize s = finish s (encoded s >>= _) := rfl
  refine ⟨rfl, ?_⟩
  rw [hexec, finish_encoded_bind, ← npkt_eq, ← toResult_packetBytes]
  rfl

/-! ### OBUF.RD (R256) -/

theorem decodeFrame_obufRd (off n : Half) :
    decodeFrame (0x03#8 :: (be16 off ++ be16 n)) = .ok (.obufRd off n) := by
  change Except.ok (Instr.obufRd (u16 _ _) (u16 _ _)) = _
  rw [u16_extractLsb', u16_extractLsb']

/-- OBUF.RD as its check and the read. -/
theorem exec_obufRd (off n : Half) (s : State) :
    exec (.obufRd off n) s =
      if off.toNat + n.toNat ≤ s.olen.toNat then
        finish s (obufRead off.toNat n.toNat s >>= fun data => .ok { state := s, value := n.toNat, data := data })
      else .next (s.badCommand 6) := by
  change finish s (check _ _ >>= _) = _
  rw [check_bind]
  split <;> rfl

/-- Settles O3: below OLEN the cells are there to be read, and past it the check refuses. -/
theorem obufRdReturnsWrittenCells : Obligations.ObufRdReturnsWrittenCells := by
  intro s off n hm
  refine ⟨decodeFrame_obufRd off n, ?_⟩
  rw [exec_obufRd]
  split
  next hin =>
    obtain ⟨data, hlen, hcells, hread⟩ := exists_readBytes_of_writtenUpTo hm hin
    refine ⟨data, hlen, hcells, ?_⟩
    rw [(obufRead_ok_iff _ _ _ _).2 hread, ok_bind, ← toResult_of_lt (show n.toNat < 2 ^ 32 by omega)]
    rfl
  next => rfl

/-! ### Blocks of one length, one after another -/

section
variable {α : Type} {f : Nat → List α} {c n : Nat}

theorem length_flatMap_range (hf : ∀ k < n, (f k).length = c) : ((List.range n).flatMap f).length = c * n := by
  induction n with
  | zero => rfl
  | succ n ih =>
    rw [List.range_succ, List.flatMap_append, List.length_append, ih fun k hk => hf k (Nat.lt_succ_of_lt hk),
      List.flatMap_singleton, hf n (Nat.lt_succ_self n), Nat.mul_succ]

/-- Element `i` of block `k`, all blocks having `c` elements. -/
theorem getElem?_flatMap_range (hf : ∀ k < n, (f k).length = c) {k i : Nat} (hk : k < n) (hi : i < c) :
    ((List.range n).flatMap f)[c * k + i]? = (f k)[i]? := by
  induction n with
  | zero => exact absurd hk k.not_lt_zero
  | succ n ih =>
    have hf' : ∀ k < n, (f k).length = c := fun k hk => hf k (Nat.lt_succ_of_lt hk)
    have hlen := length_flatMap_range hf'
    rw [List.range_succ, List.flatMap_append, List.flatMap_singleton]
    rcases Nat.lt_succ_iff_lt_or_eq.1 hk with hk' | rfl
    · have hinside : c * k + i < c * n :=
        calc c * k + i < c * (k + 1) := Nat.add_lt_add_left hi _
          _ ≤ c * n := Nat.mul_le_mul_left c hk'
      rw [List.getElem?_append_left (hlen ▸ hinside), ih hf' hk']
    · rw [List.getElem?_append_right (hlen ▸ Nat.le_add_right _ _), hlen, Nat.add_sub_cancel_left]

end

/-! ### The bytes of a packet (R81, R252) -/

/-- The four header bytes, as R252 writes them out. -/
theorem tsHeaderBytes_eq (start : BitVec 1) (pid : BitVec 13) :
    tsHeaderBytes start pid =
      [0x47#8, BitVec.ofNat 8 (start.toNat * 0x40 + pid.toNat / 256), BitVec.ofNat 8 (pid.toNat % 256), 0x10#8] := by
  have hword : (Config.tsTei ++ start ++ Config.tsPrio ++ pid : BitVec (1 + 1 + 1 + 13)).toNat =
      start.toNat * 0x4000 + pid.toNat := by
    simp only [toNat_append_eq_mul_add, Config.tsTei, Config.tsPrio, BitVec.toNat_ofNat]
    omega
  have hhigh : (start.toNat * 0x4000 + pid.toNat) / 256 = start.toNat * 0x40 + pid.toNat / 256 := by omega
  have hlow : (start.toNat * 0x4000 + pid.toNat) % 256 = pid.toNat % 256 := by omega
  rw [tsHeaderBytes, be16_eq_bigEndian, hword, bigEndian_two, hhigh, hlow]
  rfl

/-- A packet is its header bytes and its chunk; only packet 0 starts a section. -/
theorem packet_eq (pid : BitVec 13) (stream : List Byte) (k : Nat) :
    packet pid stream k =
      [0x47#8, BitVec.ofNat 8 ((if k = 0 then 0x40 else 0) + pid.toNat / 256), BitVec.ofNat 8 (pid.toNat % 256),
        0x10#8] ++ (stream.drop (184 * k)).take 184 := by
  have hstart : (if k = 0 then 1#1 else 0#1 : BitVec 1).toNat * 0x40 = if k = 0 then 0x40 else 0 := by
    split <;> rfl
  rw [packet, tsHeaderBytes_eq, hstart, Nat.mul_comm]

/-- Behind the header of packet `k` stands the stream from `184 * k` on. -/
theorem getElem?_packet_chunk (pid : BitVec 13) (stream : List Byte) (k : Nat) {j : Nat} (hj : j < 184) :
    (packet pid stream k)[4 + j]? = stream[184 * k + j]? := by
  rw [packet_eq, List.getElem?_append_right (Nat.le_add_right 4 j)]
  change (List.take 184 _)[4 + j - 4]? = _
  rw [Nat.add_sub_cancel_left, List.getElem?_take_of_lt hj, List.getElem?_drop]

/-- The stream with its constants as numbers (R252). -/
theorem pktStream_eq (sec : List Byte) :
    pktStream sec =
      0x00#8 :: (sec ++ List.replicate (184 * npkt sec.length - (sec.length + 1)) 0xFF#8) := by
  rw [Nat.mul_comm]
  rfl

/-- The stream fills its chunks exactly. -/
theorem length_pktStream (sec : List Byte) : (pktStream sec).length = 184 * npkt sec.length := by
  have := succ_le_npkt_mul sec.length
  rw [pktStream_eq, List.length_cons, List.length_append, List.length_replicate]
  omega

theorem length_packet {k : Nat} (pid : BitVec 13) {sec : List Byte} (hk : k < npkt sec.length) :
    (packet pid (pktStream sec) k).length = 188 := by
  have hstream := length_pktStream sec
  rw [packet_eq, List.length_append, List.length_take_of_le]
  · rfl
  · rw [List.length_drop]
    omega

theorem length_packets (pid : BitVec 13) (sec : List Byte) :
    (packets pid sec).length = npkt sec.length * 188 :=
  (length_flatMap_range fun _ => length_packet pid).trans (Nat.mul_comm _ _)

/-- The stream byte by byte: pointer_field, section, stuffing (R252). -/
theorem getElem?_pktStream {m : Memory} {sec : List Byte}
    (hsec : ∀ i : Nat, i < sec.length → Memory.read m i = sec[i]?) {j : Nat} (hj : j < 184 * npkt sec.length) :
    (pktStream sec)[j]? = streamByte m sec.length j := by
  cases j with
  | zero => rfl
  | succ j =>
    rw [pktStream_eq, List.getElem?_cons_succ, streamByte, if_neg j.succ_ne_zero, Nat.add_sub_cancel]
    split
    next hin => rw [List.getElem?_append_left hin, hsec j hin]
    next hpast =>
      rw [List.getElem?_append_right (by omega), List.getElem?_replicate_of_lt (by omega)]

/-! ### The cells of OBUF (R252) -/

/-- OBUF holds the bytes it has been filled with, from cell 0. -/
theorem read_cellsFrom_zero (bs : List Byte) (k : Nat) : Memory.read (cellsFrom 0 bs) k = bs[k]? := by
  rw [read_cellsFrom, if_pos k.zero_le, Nat.sub_zero]

/-- Cell `i` of packet `k`. -/
theorem read_packets (pid : BitVec 13) {sec : List Byte} {k i : Nat} (hk : k < npkt sec.length) (hi : i < 188) :
    Memory.read (cellsFrom 0 (packets pid sec)) (188 * k + i) = (packet pid (pktStream sec) k)[i]? := by
  rw [read_cellsFrom_zero]
  exact getElem?_flatMap_range (fun _ => length_packet pid) hk hi

/-- The bytes of PKT.ENC for the section that stands in `m`, put in OBUF, are what R252 says of its cells. -/
theorem packetsIn_packets (pid : BitVec 13) {m : Memory} {sec : List Byte}
    (hsec : ∀ i : Nat, i < sec.length → Memory.read m i = sec[i]?) :
    PacketsIn (cellsFrom 0 (packets pid sec)) pid m sec.length := by
  refine ⟨fun k hk => ?_, fun a ha => ?_⟩
  · have hcell {i : Nat} (hi : i < 188) := read_packets pid hk hi
    have hchunk (j : Nat) (hj : j < 184) :
        Memory.read (cellsFrom 0 (packets pid sec)) (188 * k + 4 + j) = streamByte m sec.length (184 * k + j) := by
      rw [Nat.add_assoc, hcell (by omega), getElem?_packet_chunk pid _ k hj, getElem?_pktStream hsec]
      change k < npkt sec.length at hk
      omega
    simp only [packet_eq] at hcell
    exact ⟨hcell (i := 0) (by decide), hcell (i := 1) (by decide), hcell (i := 2) (by decide),
      hcell (i := 3) (by decide), hchunk⟩
  · rw [read_cellsFrom_zero, List.getElem?_eq_none ((length_packets pid sec).trans_le ha)]

/-! ### PKT.ENC (R252) -/

theorem decodeFrame_pktEnc (cap : Half) : decodeFrame (0x51#8 :: be16 cap) = .ok (.pktEnc cap) := by
  change Except.ok (Instr.pktEnc (u16 _ _)) = _
  rw [u16_extractLsb']

/-- The checks of PKT.ENC in their order, and its work. -/
theorem exec_pktEnc (cap : Half) (s : State) :
    exec (.pktEnc cap) s =
      if cap.toNat ≤ 1128 then
        if s.encValid = true then
          if npkt s.encLen.toNat * 188 ≤ cap.toNat then
            finish s (bufRead 0 s.encLen.toNat s >>= fun sec => obufFill (packets s.pid sec) s >>= fun t =>
              .ok { state := t, value := npkt s.encLen.toNat * 188 })
          else .next (s.answered 3#3 (BitVec.ofNat 32 (npkt s.encLen.toNat * 188)) [])
        else .next (s.badCommand 7)
      else .next (s.badCommand 3) := by
  change finish s (inRange (cap.toNat ≤ 1128) >>= fun _ => encoded s >>= fun _ =>
    check (npkt s.encLen.toNat * 188 ≤ cap.toNat) _ >>= _) = _
  rw [inRange_bind]
  split
  next =>
    rw [finish_encoded_bind, check_bind]
    split_ifs <;> rfl
  next => rfl

/-- PKT.ENC after its checks, on the section it finds in BUF. -/
theorem exec_pktEnc_of_read {cap : Half} {s : State} {sec : List Byte} (hcap : cap.toNat ≤ 1128)
    (hvalid : s.encValid = true) (hfit : npkt s.encLen.toNat * 188 ≤ cap.toNat) (hlen : sec.length = s.encLen.toNat)
    (hread : Memory.readBytes s.buf 0 s.encLen.toNat = some sec) :
    exec (.pktEnc cap) s =
      .next ({ s with obuf := cellsFrom 0 (packets s.pid sec),
                      olen := BitVec.ofNat 16 (npkt s.encLen.toNat * 188) }.answered
        0#3 (BitVec.ofNat 32 (npkt s.encLen.toNat * 188)) []) := by
  have hbytes : (packets s.pid sec).length = npkt s.encLen.toNat * 188 := hlen ▸ length_packets s.pid sec
  have hfill := (obufFill_ok_iff (packets s.pid sec) s _).2 ⟨hbytes.trans_le (hfit.trans hcap), rfl⟩
  rw [exec_pktEnc, if_pos hcap, if_pos hvalid, if_pos hfit, (bufRead_ok_iff _ _ _ _).2 hread, ok_bind, hfill, ok_bind,
    hbytes, ← toResult_packetBytes]
  rfl

/-- Settles O34: the three checks in their order, and then the packets of the section that BUF holds. -/
theorem pktEncFramesTheSection : Obligations.PktEncFramesTheSection := by
  intro s cap
  refine ⟨decodeFrame_pktEnc cap, ?_⟩
  intro n
  have hexec := exec_pktEnc cap s
  split_ifs with hcap hvalid hfit
  · rw [hexec, if_neg (Nat.not_le.2 hcap)]
  · rw [hexec, if_pos (Nat.not_lt.1 hcap), if_neg (ne_true_of_eq_false hvalid)]
  · rw [hexec, if_pos (Nat.not_lt.1 hcap), if_pos (eq_true_of_ne_false hvalid)]
    exact if_neg (Nat.not_le.2 hfit)
  · intro hm
    obtain ⟨sec, hlen, hcells, hread⟩ := exists_readBytes_of_writtenUpTo hm (Nat.zero_add _).le
    have hsec (i : Nat) (hi : i < sec.length) : Memory.read s.buf i = sec[i]? :=
      (congrArg _ (Nat.zero_add i).symm).trans (hcells i (hlen ▸ hi))
    exact ⟨cellsFrom 0 (packets s.pid sec), hlen ▸ packetsIn_packets s.pid hsec,
      exec_pktEnc_of_read (Nat.not_lt.1 hcap) (eq_true_of_ne_false hvalid) (Nat.not_lt.1 hfit) hlen hread⟩

end Sys2Proof.Machine
end

section
/-! PROOFS. Errors and the numbered registers (spec 60_exceptions.md R277, R278, R284): what taking an error changes, and
what CSR.RD answers. -/

namespace Sys2Proof.Machine

/-! ### A command that ends in an error (R277, R278) -/

/-- A finished command whose STATUS is not OK has taken an error on the state before it: the answer OK has STATUS 0. -/
theorem exists_raiseErr_of_finish {s t : State} {r : Except Stop Done} (hx : finish s r = .next t)
    (hstatus : t.status ≠ 0#3) : ∃ e : Err, t = raiseErr e s := by
  obtain ⟨d, -, rfl⟩ | ⟨e, -, ht⟩ := (finish_next_iff s t r).1 hx
  · exact absurd rfl hstatus
  · exact ⟨e, ht⟩

/-- Every command is atomic (R277): all its work is done inside `finish`. -/
theorem exists_exec_eq_finish {i : Instr} (hi : i.format = .cmd) (s : State) :
    ∃ r : Except Stop Done, exec i s = finish s r := by
  cases i with
  | csrRd | bufRd | obufRd | asmReset | asmPut8 | asmPut16 | asmPut32 | asmPutn | asmPutf | asmRsv8 | asmRsv12
  | asmPatch | descSize | descEnc | descDec | secInit | secAddd | secAdde | entAddd | secSize | secEnc | crcCalc
  | pktSize | pktEnc => exact ⟨_, rfl⟩
  | _ => cases hi

/-- Settles O43: R278's table kind by kind, and for the commands their atomicity. -/
theorem errorsLeaveTheStateBefore : Obligations.ErrorsLeaveTheStateBefore := by
  refine ⟨fun e s => ?_, fun i s t hi hx hstatus => ?_⟩
  · rw [raiseErr_eq_answered]
    cases e <;> rfl
  · obtain ⟨r, hr⟩ := exists_exec_eq_finish hi s
    exact exists_raiseErr_of_finish (hr ▸ hx) hstatus

/-! ### The numbered registers (R32) -/

/-- A flag at the top of a word. -/
theorem toNat_flagBit (b : Bool) : (flagBit b).toNat = b.toNat := by cases b <;> rfl

/-- R32's table with every register written as a number. -/
def csrNumbers (s : State) : List Nat :=
  [0x47533933, s.status.toNat, s.result.toNat, s.wp.toNat, s.cap.toNat, s.pstk.length,
   s.nb.toNat * 2 ^ 8 + s.bv.toNat, s.encValid.toNat * 2 ^ 31 + s.encLen.toNat, s.olen.toNat,
   s.valid.toNat * 2 ^ 31 + s.version.toNat * 2 ^ 24 + s.tableId.toNat * 2 ^ 16 + s.networkId.toNat,
   s.pid.toNat, s.descs.length % 65536, s.ents.length % 65536]

/-- CSR 5 holds PDEPTH whole, since the stack has at most 8 entries (R27). -/
theorem toNat_csr_pdepth {s : State} (hdepth : s.pstk.length ≤ Config.patchDepth) :
    ((BitVec.ofNat 8 (pdepth s)).setWidth 32).toNat = s.pstk.length := by
  rw [BitVec.toNat_setWidth_of_le (by decide), BitVec.toNat_ofNat]
  exact Nat.mod_eq_of_lt (Nat.lt_of_le_of_lt hdepth (by decide))

/-- CSR 6: BACC.nb above BACC.bv. -/
theorem toNat_csr_bacc (s : State) :
    ((s.nb ++ s.bv.setWidth 8 : BitVec (3 + 8)).setWidth 32).toNat = s.nb.toNat * 2 ^ 8 + s.bv.toNat := by
  rw [BitVec.toNat_setWidth_of_le (by decide), toNat_append_eq_mul_add, BitVec.toNat_setWidth_of_le (by decide)]

/-- CSR 7: ENC_VALID above ENC_LEN. -/
theorem toNat_csr_enc (s : State) :
    (flagBit s.encValid ++ 0#15 ++ s.encLen : BitVec (1 + 15 + 16)).toNat =
      s.encValid.toNat * 2 ^ 31 + s.encLen.toNat := by
  simp only [toNat_append_eq_mul_add, toNat_flagBit, BitVec.toNat_ofNat]
  omega

/-- CSR 9: the section's header fields. -/
theorem toNat_csr_section (s : State) :
    (flagBit s.valid ++ 0#2 ++ s.version ++ s.tableId ++ s.networkId : BitVec (1 + 2 + 5 + 8 + 16)).toNat =
      s.valid.toNat * 2 ^ 31 + s.version.toNat * 2 ^ 24 + s.tableId.toNat * 2 ^ 16 + s.networkId.toNat := by
  simp only [toNat_append_eq_mul_add, toNat_flagBit, BitVec.toNat_ofNat]
  omega

/-- CSR 11 and 12: a length modulo 2^16. -/
theorem toNat_csr_count (k : Nat) : ((BitVec.ofNat 16 k).setWidth 32).toNat = k % 65536 := by
  rw [BitVec.toNat_setWidth_of_le (by decide), BitVec.toNat_ofNat]

/-- The registers of R32 are the numbers of its table, and both end at 12. -/
theorem csr_map_toNat {s : State} (hdepth : s.pstk.length ≤ Config.patchDepth) (n : Nat) :
    (csr n s).map BitVec.toNat = (csrNumbers s)[n]? := by
  have wide {w : Nat} (x : BitVec w) (hw : w ≤ 32) : some (x.setWidth 32).toNat = some x.toNat :=
    congrArg some (BitVec.toNat_setWidth_of_le hw)
  match n with
  | 0 | 2 => rfl
  | 1 => exact wide s.status (by decide)
  | 3 => exact wide s.wp (by decide)
  | 4 => exact wide s.cap (by decide)
  | 5 => exact congrArg some (toNat_csr_pdepth hdepth)
  | 6 => exact congrArg some (toNat_csr_bacc s)
  | 7 => exact congrArg some (toNat_csr_enc s)
  | 8 => exact wide s.olen (by decide)
  | 9 => exact congrArg some (toNat_csr_section s)
  | 10 => exact wide s.pid (by decide)
  | 11 => exact congrArg some (toNat_csr_count s.descs.length)
  | 12 => exact congrArg some (toNat_csr_count s.ents.length)
  | _ + 13 => rfl

/-! ### CSR.RD (R284) -/

/-- CSR.RD of a number that R32 reserves (R72). -/
theorem exec_csrRd_of_reserved {n : Byte} (hn : 12 < n.toNat) (s : State) :
    exec (.csrRd n) s = .next (s.badCommand 3) := by
  change finish s (inRange (n.toNat ≤ 12) >>= _) = _
  rw [inRange_bind, if_neg (Nat.not_le.2 hn)]
  rfl

/-- CSR.RD of a register, which it leaves as it was. -/
theorem exec_csrRd_of_csr {n : Byte} (hn : n.toNat ≤ 12) {s : State} {w : Word} (hw : csr n.toNat s = some w) :
    exec (.csrRd n) s = .next (s.answered 0#3 (BitVec.ofNat 32 w.toNat) []) := by
  change finish s (inRange (n.toNat ≤ 12) >>= _) = _
  rw [inRange_bind, if_pos hn, ← toResult_of_lt w.isLt]
  simp only [hw]
  rfl

/-- Settles O1: the numbers of the table are the registers' values, so each fits RESULT; past the table CSR.RD refuses. -/
theorem csrReadGivesTheNumberedRegister : Obligations.CsrReadGivesTheNumberedRegister := by
  intro s n hdepth
  refine ⟨rfl, fun hn => exec_csrRd_of_reserved hn s, fun v hv => ?_⟩
  have hlt : n.toNat < (csrNumbers s).length := (List.getElem?_eq_some_iff.1 hv).1
  have hcsr : (csr n.toNat s).map BitVec.toNat = some v := (csr_map_toNat hdepth n.toNat).trans hv
  obtain ⟨w, hw, rfl⟩ := Option.map_eq_some_iff.1 hcsr
  exact exec_csrRd_of_csr (Nat.le_of_lt_succ hlt) hw

end Sys2Proof.Machine
end

section
/-! PROOFS. The command port (spec 10_state.md R20, R290; 70_reset_and_hazards.md R300), the parameters (00_scope.md R8) and
the invariant in the state after reset. -/

namespace Sys2Proof.Machine

-- Each proof is checked before the next one begins: many at once would wait on one another in threads.
set_option Elab.async false

/-! ### The port -/

/-- With nothing on the port the block is idle (R290). -/
theorem step_of_port_nil {s : State} (h : s.port = []) : step s = .next s := by
  rw [step, servePort, h]

/-- A step serves the oldest item, which has left the port. -/
theorem step_of_port_cons {s : State} {item : PortItem} {rest : List PortItem} (h : s.port = item :: rest) :
    step s = serveItem item { s with port := rest } := by
  rw [step, servePort, h]

theorem serveFrame_of_ok {f : List Byte} {i : Instr} (h : decodeFrame f = .ok i) (s : State) :
    serveFrame f s = exec i s := by
  rw [serveFrame, h]

theorem serveFrame_of_error {f : List Byte} {e : DecodeErr} (h : decodeFrame f = .error e) (s : State) :
    serveFrame f s = .next (raiseErr (.badCommand (frameReason e)) s) := by
  rw [serveFrame, h]

/-- Settles O55, item by item. -/
theorem stepRunsTheOldestItem : Obligations.StepRunsTheOldestItem := by
  refine fun s => ⟨step_of_port_nil, fun item rest hport => ?_⟩
  rw [step_of_port_cons hport]
  refine ⟨?_, ?_, ?_, ?_⟩
  · rintro f i rfl hf
    exact serveFrame_of_ok hf _
  · rintro i rfl
    rfl
  · rintro rfl
    rfl
  · rintro rfl
    rfl

/-! ### The parameters and the state after reset -/

/-- Settles O50: the numbers of R8, and both values of ENTITY_DESC_LEN. -/
theorem parametersMeetTheirConstraints : Obligations.ParametersMeetTheirConstraints := by
  have hnesting : 2 + Config.entityDescLen.toNat ≤ Config.patchDepth := by
    cases Config.entityDescLen <;> decide
  exact ⟨by decide, by decide, by decide, by decide, hnesting, by decide⟩

/-- The invariant does not speak of the answer to the latest command, but for its status code, nor of the port. -/
theorem Inv.of_sameCore {s : State} (hs : Inv s) {status : BitVec 3} (hstatus : status ≠ 7#3) (result : Word)
    (resp : List Byte) (port : List PortItem) :
    Inv { s with status := status, result := result, resp := resp, port := port } :=
  { hs with statusKnown := hstatus }

theorem Inv.answered {s : State} (hs : Inv s) {code : BitVec 3} (hcode : code ≠ 7#3) (v : Word) (data : List Byte) :
    Inv (s.answered code v data) := hs.of_sameCore hcode _ _ s.port

theorem Inv.complete {s : State} (hs : Inv s) (v : Nat) (data : List Byte) : Inv (complete v data s) :=
  hs.answered (by decide) _ data

theorem Inv.raiseErr {s : State} (hs : Inv s) (e : Err) : Inv (raiseErr e s) :=
  hs.answered (statusCode_ne_seven e) _ []

theorem Inv.withPort {s : State} (hs : Inv s) (port : List PortItem) : Inv { s with port := port } :=
  hs.of_sameCore hs.statusKnown s.result s.resp port

/-- Settles O51: every list and stack is empty, every register is 0, and ENC_VALID is 0. -/
theorem invariantHoldsAtReset : Obligations.InvariantHoldsAtReset where
  bufCells := rfl
  wpLeCap := Nat.le_refl 0
  capLeSize := Nat.zero_le _
  depth := Nat.zero_le _
  pstkRising := .nil
  pstkWritten _ he := nomatch he
  bacc := Nat.one_pos
  obufCells := rfl
  olenLeSize := Nat.zero_le _
  olenPackets := rfl
  statusKnown := by decide
  descsAdmitted _ hd := nomatch hd
  entsAdmitted _ he := nomatch he
  encClosed h := nomatch h
  encBounds h := nomatch h
  encCurrent h := nomatch h

end Sys2Proof.Machine
end

section
/-! PROOFS. The invariant (spec 10_state.md R23, R26 to R31, R258) along every step: what the work of a command ends with
in a state that keeps it, which errors it may raise (60_exceptions.md R271), and that no cell it reads is unwritten. -/

namespace Sys2Proof.Machine

-- Each proof is checked before the next one begins: many at once would wait on one another in threads.
set_option Elab.async false

/-! ### Work that does not fault -/

/-- The work `r` ends with a result that satisfies `P`, or with an error that satisfies `E`; it does not fault. -/
def Meets {α : Type} (E : Err → Prop) (P : α → Prop) : Except Stop α → Prop
  | .ok a => P a
  | .error (.err e) => E e
  | .error (.fault _) => False

section
variable {α β : Type} {E : Err → Prop} {P Q : α → Prop} {R : β → Prop}

theorem Meets.bind {x : Except Stop α} {f : α → Except Stop β} (hx : Meets E P x) (hf : ∀ a, P a → Meets E R (f a)) :
    Meets E R (x >>= f) := by
  match x with
  | .ok a => exact hf a hx
  | .error (.err e) => exact hx
  | .error (.fault _) => exact hx.elim

/-- A check in front of the rest of the work. -/
theorem Meets.check {c : Prop} [Decidable c] {e : Err} {f : Unit → Except Stop α} (he : E e)
    (hf : c → Meets E P (f ())) : Meets E P (check c e >>= f) := by
  rw [check_bind]
  split
  next h => exact hf h
  next => exact he

/-- `create` gives the descriptor that it admits, or raises UnknownTag or MalformedInput (R192). -/
theorem meets_create {tag : Byte} {p : List Byte} (hunknown : E (.unknownTag tag)) (hmalformed : ∀ n, E (.malformedInput n)) :
    Meets E (fun d => d = ⟨tag, p⟩ ∧ Admitted d) (create tag p) := by
  rcases create_cases tag p with ⟨hcreate, hadmit, -⟩ | ⟨e, hcreate, hadmit⟩
  · rw [hcreate]
    exact ⟨rfl, hadmit⟩
  · rw [hcreate]
    change E e
    unfold create at hcreate
    rcases lookup_cases tag with ⟨-, k, hlookup, -⟩ | ⟨-, hlookup⟩
    · rw [hlookup, ok_bind, check_bind, check_bind] at hcreate
      split_ifs at hcreate <;> cases hcreate <;> exact hmalformed _
    · rw [hlookup] at hcreate
      cases hcreate
      exact hunknown

end

/-! ### Memories without gaps -/

theorem map_fst_cellsFrom_zero (bs : List Byte) : (cellsFrom 0 bs).map Prod.fst = List.range bs.length := by
  rw [map_fst_cellsFrom, List.range_eq_range']

theorem write_nil_zero (bs : List Byte) : Memory.write [] 0 bs = cellsFrom 0 bs := by simp [Memory.write]

/-- A write at the end of the written cells leaves no gap. -/
theorem writtenUpTo_write_end {m : Memory} {n : Nat} (hm : WrittenUpTo m n) (bs : List Byte) :
    WrittenUpTo (Memory.write m n bs) (n + bs.length) := by
  obtain ⟨xs, rfl, rfl⟩ : ∃ xs : List Byte, xs.length = n ∧ m = cellsFrom 0 xs :=
    ⟨m.map Prod.snd, by simpa using congrArg List.length hm, eq_cellsFrom_of_range hm⟩
  have happend := write_write_next [] 0 xs bs
  rw [write_nil_zero, write_nil_zero, Nat.zero_add] at happend
  rw [happend, WrittenUpTo, map_fst_cellsFrom_zero, List.length_append]

/-- A write over written cells leaves them written. -/
theorem writtenUpTo_write_inside {m : Memory} {n a : Nat} (hm : WrittenUpTo m n) {bs : List Byte}
    (hfit : a + bs.length ≤ n) : WrittenUpTo (Memory.write m a bs) n := by
  obtain ⟨xs, ys, zs, rfl, hys, rfl⟩ := exists_cellsFrom_of_writtenUpTo hm hfit
  have hinside := write_write_inside [] 0 xs ys zs bs hys.symm
  rw [write_nil_zero, write_nil_zero, Nat.zero_add] at hinside
  rw [WrittenUpTo, map_fst_cellsFrom_zero] at hm
  rw [hinside, WrittenUpTo, map_fst_cellsFrom_zero, ← hm]
  simp only [List.length_append, hys]

/-! ### The assembly part of the invariant -/

/-- The clauses of the invariant about BUF, WP, CAP, PSTK and BACC (R26 to R28). -/
structure AsmInv (s : State) : Prop where
  bufCells : WrittenUpTo s.buf s.wp.toNat
  wpLeCap : s.wp.toNat ≤ s.cap.toNat
  capLeSize : s.cap.toNat ≤ Config.bufSize
  depth : s.pstk.length ≤ Config.patchDepth
  pstkRising : s.pstk.Pairwise fun upper lower => lower.off.toNat < upper.off.toNat
  pstkWritten : ∀ e ∈ s.pstk, e.off.toNat + fsize e.kind ≤ s.wp.toNat
  bacc : s.bv.toNat < 2 ^ s.nb.toNat

theorem Inv.asm {s : State} (hs : Inv s) : AsmInv s :=
  ⟨hs.bufCells, hs.wpLeCap, hs.capLeSize, hs.depth, hs.pstkRising, hs.pstkWritten, hs.bacc⟩

/-- `t` is `s` after work of the assembly unit: it may differ in BUF, WP, PSTK and BACC, and ENC_VALID is 0. -/
def Assembled (s t : State) : Prop :=
  t = { s with buf := t.buf, wp := t.wp, pstk := t.pstk, nb := t.nb, bv := t.bv, encValid := false }

theorem assembled_appended (bs : List Byte) (s : State) : Assembled s (appended bs s) := rfl

theorem assembled_reserved (kind : FieldKind) (bs : List Byte) (s : State) : Assembled s (reserved kind bs s) := rfl

theorem assembled_packedBits (w n : Nat) (s : State) : Assembled s (packedBits w n s) := rfl

theorem assembled_patched (e : PatchEntry) (rest : List PatchEntry) (b0 : Byte) (s : State) :
    Assembled s (patched e rest b0 s) := rfl

/-- Work of the assembly unit ends the current encoding, so the clauses about it are void (R29). -/
theorem Inv.of_assembled {s t : State} (hs : Inv s) (h : Assembled s t) (ht : AsmInv t) : Inv t := by
  obtain ⟨bufCells, wpLeCap, capLeSize, depth, pstkRising, pstkWritten, bacc⟩ := ht
  unfold Assembled at h
  rw [h]
  rw [h] at wpLeCap capLeSize
  exact {
    bufCells := bufCells
    wpLeCap := wpLeCap
    capLeSize := capLeSize
    depth := depth
    pstkRising := pstkRising
    pstkWritten := pstkWritten
    bacc := bacc
    obufCells := hs.obufCells
    olenLeSize := hs.olenLeSize
    olenPackets := hs.olenPackets
    statusKnown := hs.statusKnown
    descsAdmitted := hs.descsAdmitted
    entsAdmitted := hs.entsAdmitted
    encClosed := nofun
    encBounds := nofun
    encCurrent := nofun }

section
variable {s : State}

theorem AsmInv.appended (hs : AsmInv s) {bs : List Byte} (fits : s.wp.toNat + bs.length ≤ s.cap.toNat) :
    AsmInv (appended bs s) := by
  have hwp := appended_wp_toNat fits
  exact {
    bufCells := by
      rw [hwp]
      exact writtenUpTo_write_end hs.bufCells bs
    wpLeCap := hwp.trans_le fits
    capLeSize := hs.capLeSize
    depth := hs.depth
    pstkRising := hs.pstkRising
    pstkWritten := fun e he => hwp ▸ Nat.le_add_right_of_le (hs.pstkWritten e he)
    bacc := hs.bacc }

theorem AsmInv.reserved (hs : AsmInv s) {kind : FieldKind} {bs : List Byte} (hlen : bs.length = fsize kind)
    (hdepth : s.pstk.length < Config.patchDepth) (fits : s.wp.toNat + bs.length ≤ s.cap.toNat) :
    AsmInv (reserved kind bs s) := by
  have hwp : (Machine.reserved kind bs s).wp.toNat = s.wp.toNat + bs.length := appended_wp_toNat fits
  have hsize (k : FieldKind) : 0 < fsize k := by cases k <;> decide
  have hpstk : (Machine.reserved kind bs s).pstk = ⟨s.wp, kind⟩ :: s.pstk := rfl
  have happ := hs.appended fits
  exact {
    bufCells := happ.bufCells
    wpLeCap := happ.wpLeCap
    capLeSize := happ.capLeSize
    depth := hdepth
    pstkRising := by
      refine .cons (fun e he => ?_) hs.pstkRising
      have hbelow := hs.pstkWritten e he
      have := hsize e.kind
      exact show e.off.toNat < s.wp.toNat by omega
    pstkWritten := by
      rw [hpstk, hwp, List.forall_mem_cons]
      exact ⟨Nat.add_le_add_left hlen.ge _, fun e he => Nat.le_add_right_of_le (hs.pstkWritten e he)⟩
    bacc := happ.bacc }

/-- R106: at most 7 bits stay pending, and BACC.bv holds no others. -/
theorem AsmInv.packedBits (hs : AsmInv s) {w n : Nat} (fits : s.wp.toNat + (s.nb.toNat + w) / 8 ≤ s.cap.toNat) :
    AsmInv (packedBits w n s) := by
  have happ := hs.appended (bs := completedBytes w n s) (by rwa [length_completedBytes])
  exact {
    bufCells := happ.bufCells
    wpLeCap := happ.wpLeCap
    capLeSize := happ.capLeSize
    depth := happ.depth
    pstkRising := happ.pstkRising
    pstkWritten := happ.pstkWritten
    bacc := by
      rw [packedBits_bv_toNat, packedBits_nb_toNat]
      exact Nat.mod_lt _ (by positivity) }

theorem length_closedField (kind : FieldKind) (b0 : Byte) (n : Nat) : (closedField kind b0 n).length = fsize kind := by
  cases kind <;> rfl

theorem AsmInv.patched (hs : AsmInv s) {e : PatchEntry} {rest : List PatchEntry} (hpstk : s.pstk = e :: rest)
    (b0 : Byte) : AsmInv (patched e rest b0 s) := by
  obtain ⟨bufCells, wpLeCap, capLeSize, depth, pstkRising, pstkWritten, bacc⟩ := hs
  rw [hpstk] at depth pstkRising pstkWritten
  have hbelow := pstkWritten e List.mem_cons_self
  exact {
    bufCells := writtenUpTo_write_inside bufCells (by rwa [length_closedField])
    wpLeCap := wpLeCap
    capLeSize := capLeSize
    depth := Nat.le_of_succ_le depth
    pstkRising := pstkRising.of_cons
    pstkWritten := fun x hx => pstkWritten x (List.mem_cons_of_mem e hx)
    bacc := bacc }

end

/-! ### The operations of the assembly unit in a state that keeps the invariant -/

/-- The invariant holds, and at least `d` length fields are open. -/
def InvOpen (d : Nat) (s : State) : Prop := Inv s ∧ d ≤ s.pstk.length

theorem Inv.invOpen {s : State} (hs : Inv s) : InvOpen 0 s := ⟨hs, Nat.zero_le _⟩

section
variable {E : Err → Prop} {s : State} {d : Nat}

/-- An append succeeds, or raises BadCommand(2) or BufferTooSmall (R100). -/
theorem meets_appendBytes (hs : InvOpen d s) (bs : List Byte) (hpending : E (.badCommand .pendingBits))
    (hsmall : ∀ n, E (.bufferTooSmall n)) : Meets E (InvOpen d) (appendBytes bs s) := by
  obtain ⟨hs, hd⟩ := hs
  rw [appendBytes_eq]
  split_ifs with hnb hfit hsize
  · exact ⟨hs.of_assembled (assembled_appended bs s) (hs.asm.appended hfit), hd⟩
  · exact hsize (hfit.trans hs.capLeSize)
  · exact hsmall _
  · exact hpending

theorem meets_appendDone (hs : InvOpen d s) (bs : List Byte) (hpending : E (.badCommand .pendingBits))
    (hsmall : ∀ n, E (.bufferTooSmall n)) : Meets E (fun x => InvOpen d x.state) (appendDone bs s) :=
  (meets_appendBytes hs bs hpending hsmall).bind fun _ ht => ht

/-- A reservation succeeds and opens a field, or raises BadCommand(2), BadCommand(4) or BufferTooSmall (R108, R109). -/
theorem meets_reserve (hs : InvOpen d s) {kind : FieldKind} {bs : List Byte} (hlen : bs.length = fsize kind)
    (hpending : E (.badCommand .pendingBits)) (hfull : E (.badCommand .patchFull))
    (hsmall : ∀ n, E (.bufferTooSmall n)) : Meets E (InvOpen (d + 1)) (reserve kind bs s) := by
  obtain ⟨hs, hd⟩ := hs
  rw [reserve_eq]
  split_ifs with hnb hdepth hfit hsize
  · exact ⟨hs.of_assembled (assembled_reserved kind bs s) (hs.asm.reserved hlen hdepth hfit), Nat.succ_le_succ hd⟩
  · exact hsize (hfit.trans hs.capLeSize)
  · exact hsmall _
  · exact hfull
  · exact hpending

/-- ASM.PUTF after its operand checks succeeds, or raises BufferTooSmall (R106). -/
theorem meets_putField (hs : InvOpen d s) (w : Nat) (v : Word) (hsmall : ∀ n, E (.bufferTooSmall n)) :
    Meets E (InvOpen d) (putField w v s) := by
  obtain ⟨hs, hd⟩ := hs
  rw [putField_eq]
  split_ifs with hfit hsize
  · rw [packedField_eq_packedBits]
    exact ⟨hs.of_assembled (assembled_packedBits w v.toNat s) (hs.asm.packedBits hfit), hd⟩
  · exact hsize (hfit.trans hs.capLeSize)
  · exact hsmall _

/-- With an open field, ASM.PATCH closes it, or raises BadCommand(2) or MalformedInput (R110). -/
theorem meets_patchTop (hs : InvOpen (d + 1) s) (hpending : E (.badCommand .pendingBits))
    (hlong : ∀ n, E (.malformedInput n)) : Meets E (fun r => InvOpen d r.1) (patchTop s) := by
  obtain ⟨hs, hd⟩ := hs
  by_cases hnb : s.nb = 0#3
  · obtain ⟨e, rest, hpstk⟩ := List.exists_cons_of_length_pos (Nat.zero_lt_of_lt hd)
    have hbelow := hs.pstkWritten e (by simp [hpstk])
    have hsize : 0 < fsize e.kind := by cases e.kind <;> decide
    obtain ⟨b0, hread⟩ := exists_read_of_writtenUpTo (k := e.off.toNat) hs.bufCells (by omega)
    rw [patchTop_of_written hnb hpstk hread (hbelow.trans (hs.wpLeCap.trans hs.capLeSize))]
    split_ifs
    · rw [hpstk] at hd
      exact ⟨hs.of_assembled (assembled_patched e rest b0 s) (hs.asm.patched hpstk b0), Nat.le_of_succ_le_succ hd⟩
    · exact hlong _
  · rw [patchTop, check_bind, if_neg hnb]
    exact hpending

end

/-! ### How a command answers -/

/-- The errors of an instruction's row (R271). -/
def allows (i : Instr) (e : Err) : Bool :=
  match e with
  | .badCommand r => (mayRaise i).2.contains (reasonCode r)
  | e => (mayRaise i).1.contains (statusCode e)

/-- `o` is a next state that keeps the invariant; it is answered OK and satisfies `P`, or it carries an error that
satisfies `E`. -/
def Answers (E : Err → Prop) (P : State → Prop) (o : Out) : Prop :=
  ∃ t : State, o = .next t ∧ Inv t ∧
    (t.status = 0#3 ∧ P t ∨ ∃ e, E e ∧ t.status = statusCode e ∧ t.result = BitVec.ofNat 32 (errInfo e))

section
variable {E : Err → Prop} {P : State → Prop} {s : State} {d : Nat}

theorem Answers.mono {Q : State → Prop} {o : Out} (h : Answers E P o) (hPQ : ∀ t, P t → Q t) : Answers E Q o := by
  obtain ⟨t, ho, ht, hend⟩ := h
  exact ⟨t, ho, ht, hend.imp_left fun ⟨hok, hP⟩ => ⟨hok, hPQ t hP⟩⟩

theorem answers_raiseErr (hs : Inv s) {e : Err} (he : E e) : Answers E P (.next (raiseErr e s)) :=
  ⟨_, rfl, hs.raiseErr e, .inr ⟨e, he, rfl, rfl⟩⟩

theorem answers_ok (hs : Inv s) (v : Nat) (data : List Byte) (hP : P (complete v data s)) :
    Answers E P (.next (complete v data s)) :=
  ⟨_, rfl, hs.complete v data, .inl ⟨rfl, hP⟩⟩

theorem answers_finish (hs : Inv s) {r : Except Stop Done} (hr : Meets E (fun x => InvOpen d x.state) r) :
    Answers E (InvOpen d) (finish s r) := by
  match r with
  | .ok x => exact answers_ok hr.1 x.value x.data ⟨hr.1.complete x.value x.data, hr.2⟩
  | .error (.err e) => exact answers_raiseErr hs hr
  | .error (.fault _) => exact hr.elim

end

end Sys2Proof.Machine
end

section
/-! PROOFS. Every instruction in a state that keeps the invariant: it answers a next state that keeps it, with OK or with an
error of its row (spec 60_exceptions.md R271, 70_reset_and_hazards.md R307). -/

namespace Sys2Proof.Machine

-- Each proof is checked before the next one begins: many at once would wait on one another in threads.
set_option Elab.async false

/-! ### Commands that read -/

section
variable {E : Err → Prop} {s : State}

theorem meets_bufRead (hs : Inv s) {a n : Nat} (h : a + n ≤ s.wp.toNat) : Meets E (fun _ => True) (bufRead a n s) := by
  obtain ⟨data, -, -, hread⟩ := exists_readBytes_of_writtenUpTo hs.bufCells h
  rw [(bufRead_ok_iff _ _ _ _).2 hread]
  trivial

theorem meets_obufRead (hs : Inv s) {a n : Nat} (h : a + n ≤ s.olen.toNat) : Meets E (fun _ => True) (obufRead a n s) := by
  obtain ⟨data, -, -, hread⟩ := exists_readBytes_of_writtenUpTo hs.obufCells h
  rw [(obufRead_ok_iff _ _ _ _).2 hread]
  trivial

/-- Every number up to 12 is a register (R32). -/
theorem exists_csr (hs : Inv s) {n : Nat} (hn : n ≤ 12) : ∃ v, csr n s = some v := by
  have hlt : n < (csrNumbers s).length := Nat.lt_succ_of_le hn
  have hcsr := csr_map_toNat hs.depth n
  rw [List.getElem?_eq_getElem hlt] at hcsr
  obtain ⟨v, hv, -⟩ := Option.map_eq_some_iff.1 hcsr
  exact ⟨v, hv⟩

theorem answers_csrRd (hs : Inv s) (n : Byte) (hrange : E (.badCommand .operandRange)) :
    Answers E (InvOpen 0) (exec (.csrRd n) s) := by
  refine answers_finish hs (.check hrange fun hn => ?_)
  obtain ⟨v, hv⟩ := exists_csr hs hn
  rw [hv]
  exact hs.invOpen

/-! ### Commands that start the assembly or the section anew, or add to the section -/

/-- An empty assembly keeps the invariant (R101). -/
theorem Inv.asmClear (hs : Inv s) {cap : Half} (hcap : cap.toNat ≤ Config.bufSize) : Inv (asmClear cap s) :=
  { hs with
    bufCells := rfl
    wpLeCap := Nat.zero_le _
    capLeSize := hcap
    depth := Nat.zero_le _
    pstkRising := .nil
    pstkWritten := nofun
    bacc := Nat.one_pos
    encClosed := nofun
    encBounds := nofun
    encCurrent := nofun }

theorem Inv.withSection (hs : Inv s) {ds : List Descriptor} {es : List Entity} (hds : ∀ d ∈ ds, Admitted d)
    (hes : ∀ e ∈ es, ∀ d ∈ e.descs, Admitted d) (valid : Bool) (tableId : Byte) (networkId : Half) (version : BitVec 5)
    (pid : BitVec 13) :
    Inv { s with valid := valid, tableId := tableId, networkId := networkId, version := version, pid := pid,
                 descs := ds, ents := es, encValid := false } :=
  { hs with
    descsAdmitted := hds
    entsAdmitted := hes
    encClosed := nofun
    encBounds := nofun
    encCurrent := nofun }

theorem answers_secInit (hs : Inv s) (tableId : Byte) (networkId : Half) (version : Byte) (pid : Half)
    (hrange : E (.badCommand .operandRange)) :
    Answers E (InvOpen 0) (exec (.secInit tableId networkId version pid) s) :=
  answers_finish hs (.check hrange fun _ => (hs.withSection (ds := []) (es := []) nofun nofun true _ _ _ _).invOpen)

theorem answers_secAddd (hs : Inv s) (tag : Byte) (p : List Byte) (hseq : E (.badCommand .outOfSequence))
    (hunknown : E (.unknownTag tag)) (hmalformed : ∀ n, E (.malformedInput n)) :
    Answers E (InvOpen 0) (exec (.secAddd tag p) s) := by
  refine answers_finish hs (.check hseq fun _ => (meets_create hunknown hmalformed).bind fun d hd => ?_)
  have hds : ∀ x ∈ s.descs ++ [d], Admitted x :=
    List.forall_mem_append.2 ⟨hs.descsAdmitted, List.forall_mem_singleton.2 hd.2⟩
  exact (hs.withSection hds hs.entsAdmitted s.valid s.tableId s.networkId s.version s.pid).invOpen

theorem answers_secAdde (hs : Inv s) (tsId onId : Half) (hseq : E (.badCommand .outOfSequence)) :
    Answers E (InvOpen 0) (exec (.secAdde tsId onId) s) := by
  refine answers_finish hs (.check hseq fun _ => ?_)
  have hes : ∀ e ∈ s.ents ++ [⟨tsId, onId, []⟩], ∀ d ∈ e.descs, Admitted d :=
    List.forall_mem_append.2 ⟨hs.entsAdmitted, List.forall_mem_singleton.2 nofun⟩
  exact (hs.withSection hs.descsAdmitted hes s.valid s.tableId s.networkId s.version s.pid).invOpen

/-- The entities' descriptors after one more for entity `h` (R203). -/
theorem forall_mem_addToEntity {P : Descriptor → Prop} {h : Nat} {d : Descriptor} {es : List Entity}
    (hes : ∀ e ∈ es, ∀ x ∈ e.descs, P x) (hd : P d) : ∀ e ∈ addToEntity h d es, ∀ x ∈ e.descs, P x := by
  intro e he
  obtain ⟨j, hj⟩ := List.mem_iff_getElem?.1 he
  rw [addToEntity, List.getElem?_modify] at hj
  obtain ⟨f, hf, rfl⟩ := Option.map_eq_some_iff.1 hj
  have hold := hes f (List.mem_of_getElem? hf)
  split
  next => exact List.forall_mem_append.2 ⟨hold, List.forall_mem_singleton.2 hd⟩
  next => exact hold

theorem answers_entAddd (hs : Inv s) (h : Half) (tag : Byte) (p : List Byte) (hseq : E (.badCommand .outOfSequence))
    (hrange : E (.badCommand .operandRange)) (hunknown : E (.unknownTag tag)) (hmalformed : ∀ n, E (.malformedInput n)) :
    Answers E (InvOpen 0) (exec (.entAddd h tag p) s) := by
  refine answers_finish hs (.check hseq fun _ => ?_)
  split
  next => exact hrange
  next =>
    refine (meets_create hunknown hmalformed).bind fun d hd => ?_
    have hes := forall_mem_addToEntity (h := h.toNat) hs.entsAdmitted hd.2
    exact (hs.withSection hs.descsAdmitted hes s.valid s.tableId s.networkId s.version s.pid).invOpen

/-! ### The codec and the encoders -/

theorem answers_descSize (hs : Inv s) (tag : Byte) (p : List Byte) (hunknown : E (.unknownTag tag))
    (hmalformed : ∀ n, E (.malformedInput n)) : Answers E (InvOpen 0) (exec (.descSize tag p) s) :=
  answers_finish hs ((meets_create hunknown hmalformed).bind fun _ _ => hs.invOpen)

theorem meets_decodeCheck (k : Byte) (c : Kind) (b : List Byte) (hmismatch : ∀ t, E (.tagMismatch t))
    (hmalformed : ∀ n, E (.malformedInput n)) : Meets E (fun _ => True) (decodeCheck k c b) := by
  match b with
  | [] => exact hmalformed 0
  | [t] => exact .check (hmismatch t) fun _ => hmalformed 1
  | t :: l :: p =>
    exact .check (hmismatch t) fun _ => .check (hmalformed _) fun _ => .check (hmalformed 0) fun _ => trivial

theorem answers_descDec (hs : Inv s) (k : Byte) (b : List Byte) (hunknown : E (.unknownTag k))
    (hmismatch : ∀ t, E (.tagMismatch t)) (hmalformed : ∀ n, E (.malformedInput n)) :
    Answers E (InvOpen 0) (exec (.descDec k b) s) := by
  rcases lookup_cases k with ⟨-, c, hlookup, -⟩ | ⟨-, hlookup⟩
  · rw [exec_descDec hlookup]
    exact answers_finish hs ((meets_decodeCheck k c b hmismatch hmalformed).bind fun _ _ => hs.invOpen)
  · have hexec : exec (.descDec k b) s = .next (raiseErr (.unknownTag k) s) := by
      change finish s (lookup k >>= _) = _
      rw [hlookup]
      rfl
    rw [hexec]
    exact answers_raiseErr hs hunknown

theorem answers_descEnc (hs : Inv s) (tag : Byte) (p : List Byte) (hpending : E (.badCommand .pendingBits))
    (hfull : E (.badCommand .patchFull)) (hunknown : E (.unknownTag tag)) (hmalformed : ∀ n, E (.malformedInput n))
    (hsmall : ∀ n, E (.bufferTooSmall n)) : Answers E (InvOpen 0) (exec (.descEnc tag p) s) := by
  rw [exec_descEnc]
  refine answers_finish hs (.check hpending fun hnb => .check hfull fun hdepth =>
    (meets_create hunknown hmalformed).bind fun d hd => .check (hsmall _) fun hfit => ?_)
  obtain ⟨rfl, hadmit⟩ := hd
  have hfit' : s.wp.toNat + (p.length + 2) ≤ s.cap.toNat := hfit
  rw [encDescriptor_of_room (length_le_of_admitError_eq_none hadmit) hdepth ⟨hnb, hfit', hs.capLeSize⟩]
  exact (hs.of_assembled (assembled_appended (encodeTlv (tag, p)) s) (hs.asm.appended hfit')).invOpen

theorem Inv.payloadsFit (hs : Inv s) : PayloadsFit s :=
  ⟨fun d hd => length_le_of_admitError_eq_none (hs.descsAdmitted d hd),
    fun e he d hd => length_le_of_admitError_eq_none (hs.entsAdmitted e he d hd)⟩

theorem sixteen_le_secSize (edl : Bool) (s : State) : 16 ≤ secSize edl s := by
  simp only [secSize, Config.crcLen]
  omega

/-- SEC.ENC leaves a current encoding (R29, R206, R258). -/
theorem Inv.sectionDone (hs : Inv s) {cap : Half} (hready : SecReady cap s) :
    Inv (s.sectionDone cap (secSize Config.entityDescLen s)
      (Memory.write [] 0 (sectionLayout Config.entityDescLen s))) := by
  obtain ⟨hcap, hvalid, hmax, hfit, -, -⟩ := hready
  have hlen := length_sectionLayout Config.entityDescLen s
  have hword : (BitVec.ofNat 16 (secSize Config.entityDescLen s)).toNat = secSize Config.entityDescLen s :=
    Nat.mod_eq_of_lt (Nat.lt_of_le_of_lt hmax (by decide))
  have hcells : WrittenUpTo (Memory.write [] 0 (sectionLayout Config.entityDescLen s))
      (BitVec.ofNat 16 (secSize Config.entityDescLen s)).toNat := by
    rw [hword, write_nil_zero, WrittenUpTo, map_fst_cellsFrom_zero, hlen]
  exact {
    bufCells := hcells
    wpLeCap := hword.trans_le hfit
    capLeSize := hcap
    depth := Nat.zero_le _
    pstkRising := .nil
    pstkWritten := nofun
    bacc := Nat.one_pos
    obufCells := hs.obufCells
    olenLeSize := hs.olenLeSize
    olenPackets := hs.olenPackets
    statusKnown := show 0#3 ≠ 7#3 by decide
    descsAdmitted := hs.descsAdmitted
    entsAdmitted := hs.entsAdmitted
    encClosed := fun _ => ⟨hvalid, rfl, rfl, rfl⟩
    encBounds := fun _ => ⟨(sixteen_le_secSize _ s).trans_eq hword.symm, hword.trans_le hmax⟩
    encCurrent := fun _ => by
      change Memory.readBytes (Memory.write [] 0 _) 0 (BitVec.ofNat 16 _).toNat = some (sectionLayout _ s)
      rw [hword, ← hlen]
      exact readBytes_write [] 0 _ }

theorem answers_secEnc (hs : Inv s) (cap : Half) (hrange : E (.badCommand .operandRange))
    (hseq : E (.badCommand .outOfSequence)) (hlarge : ∀ n, E (.sectionTooLarge n)) (hsmall : ∀ n, E (.bufferTooSmall n)) :
    Answers E (InvOpen 0) (exec (.secEnc cap) s) := by
  by_cases hready : SecReady cap s
  · rw [exec_secEnc_of_ready hready]
    have ht := hs.sectionDone hready
    exact ⟨_, rfl, ht, .inl ⟨rfl, ht.invOpen⟩⟩
  · have hexec := exec_secEnc cap s
    split_ifs at hexec with hcap hvalid hmax hfit
    · exact absurd ⟨hcap, hvalid, hmax, hfit, hs.payloadsFit⟩ hready
    · exact hexec ▸ answers_raiseErr hs (hsmall _)
    · exact hexec ▸ answers_raiseErr hs (hlarge _)
    · exact hexec ▸ answers_raiseErr hs hseq
    · exact hexec ▸ answers_raiseErr hs hrange

theorem answers_pktEnc (hs : Inv s) (cap : Half) (hrange : E (.badCommand .operandRange))
    (hseq : E (.badCommand .outOfSequence)) (hsmall : ∀ n, E (.bufferTooSmall n)) :
    Answers E (InvOpen 0) (exec (.pktEnc cap) s) := by
  have hexec := exec_pktEnc cap s
  split_ifs at hexec with hcap hvalid hfit
  · obtain ⟨-, hwp, -, -⟩ := hs.encClosed hvalid
    have hm : WrittenUpTo s.buf s.encLen.toNat := hwp ▸ hs.bufCells
    obtain ⟨sec, hlen, -, hread⟩ := exists_readBytes_of_writtenUpTo hm (Nat.zero_add _).le
    have hbytes : (packets s.pid sec).length = npkt s.encLen.toNat * 188 := hlen ▸ length_packets s.pid sec
    have hword : (BitVec.ofNat 16 (npkt s.encLen.toNat * 188)).toNat = npkt s.encLen.toNat * 188 :=
      Nat.mod_eq_of_lt (Nat.lt_of_le_of_lt (hfit.trans hcap) (by decide))
    rw [exec_pktEnc_of_read hcap hvalid hfit hlen hread]
    have ht : Inv { s with obuf := cellsFrom 0 (packets s.pid sec)
                           olen := BitVec.ofNat 16 (npkt s.encLen.toNat * 188) } :=
      { hs with
        obufCells := by rw [map_fst_cellsFrom_zero, hbytes, hword]
        olenLeSize := hword.trans_le (hfit.trans hcap)
        olenPackets := by rw [hword]; exact Nat.mul_mod_left _ _ }
    exact ⟨_, rfl, ht.answered (by decide) _ [], .inl ⟨rfl, (ht.answered (by decide) _ []).invOpen⟩⟩
  · exact hexec ▸ answers_raiseErr hs (hsmall _)
  · exact hexec ▸ answers_raiseErr hs hseq
  · exact hexec ▸ answers_raiseErr hs hrange

end

/-! ### The commands of the assembly unit -/

section
variable {E : Err → Prop} {s : State} {d : Nat}

theorem answers_append (hs : InvOpen d s) (bs : List Byte) (hpending : E (.badCommand .pendingBits))
    (hsmall : ∀ n, E (.bufferTooSmall n)) : Answers E (InvOpen d) (finish s (appendDone bs s)) :=
  answers_finish hs.1 (meets_appendDone hs bs hpending hsmall)

theorem answers_asmRsv8 (hs : InvOpen d s) (hpending : E (.badCommand .pendingBits))
    (hfull : E (.badCommand .patchFull)) (hsmall : ∀ n, E (.bufferTooSmall n)) :
    Answers E (InvOpen (d + 1)) (execAsmRsv8 s) :=
  answers_finish hs.1 ((meets_reserve hs rfl hpending hfull hsmall).bind fun _ ht => ht)

theorem answers_asmRsv12 (hs : Inv s) (hi : Byte) (hrange : E (.badCommand .operandRange))
    (hpending : E (.badCommand .pendingBits)) (hfull : E (.badCommand .patchFull)) (hsmall : ∀ n, E (.bufferTooSmall n)) :
    Answers E (InvOpen 0) (exec (.asmRsv12 hi) s) :=
  answers_finish hs (.check hrange fun _ => (meets_reserve hs.invOpen rfl hpending hfull hsmall).bind fun _ ht => ht.1.invOpen)

theorem answers_asmPatch (hs : InvOpen (d + 1) s) (hpending : E (.badCommand .pendingBits))
    (hlong : ∀ n, E (.malformedInput n)) : Answers E (InvOpen d) (execAsmPatch s) :=
  answers_finish hs.1 ((meets_patchTop hs hpending hlong).bind fun _ ht => ht)

/-- ASM.PATCH with an open field or without one. -/
theorem answers_asmPatch_any (hs : Inv s) (hpending : E (.badCommand .pendingBits)) (hempty : E (.badCommand .patchEmpty))
    (hlong : ∀ n, E (.malformedInput n)) : Answers E (InvOpen 0) (exec .asmPatch s) := by
  cases hpstk : s.pstk with
  | nil =>
    rw [exec_asmPatch, patchTop, check_bind, hpstk]
    split_ifs
    · exact answers_raiseErr hs hempty
    · exact answers_raiseErr hs hpending
  | cons e rest =>
    exact answers_asmPatch ⟨hs, by simp [hpstk]⟩ hpending hlong

theorem answers_asmPutf (hs : InvOpen d s) {w : Byte} {v : Word} (hrange : FieldInRange w v ∨ E (.badCommand .operandRange))
    (hsmall : ∀ n, E (.bufferTooSmall n)) : Answers E (InvOpen d) (execAsmPutf w v s) := by
  refine answers_finish hs.1 ?_
  change Meets E _ (inRange (FieldInRange w v) >>= _)
  rw [inRange_bind]
  split
  next => exact (meets_putField hs w.toNat v hsmall).bind fun _ ht => ht
  next h => exact hrange.resolve_left h

end

/-! ### Pseudo-instructions -/

/-- The fields that a line packs are in range of ASM.PUTF (R72). -/
def Line.inRange : Line → Prop
  | .putf w v => FieldInRange w v
  | _ => True

theorem inRange_putBits {w : Nat} (v : BitVec w) (hpos : 1 ≤ w := by decide) (hle : w ≤ 32 := by decide) :
    (putBits v).inRange := by
  have hw : (BitVec.ofNat 8 w).toNat = w := Nat.mod_eq_of_lt (by omega)
  have hv : (v.setWidth 32).toNat = v.toNat := BitVec.toNat_setWidth_of_le hle
  change FieldInRange _ _
  rw [FieldInRange, hw, hv]
  exact ⟨hpos, hle, v.isLt⟩

/-- The errors that the commands of a pseudo-instruction may raise. -/
structure LineErrors (E : Err → Prop) : Prop where
  pending : E (.badCommand .pendingBits)
  full : E (.badCommand .patchFull)
  small : ∀ n, E (.bufferTooSmall n)
  long : ∀ n, E (.malformedInput n)

section
variable {E : Err → Prop} {s : State} {d : Nat}

theorem answers_line (hE : LineErrors E) {l : Line} {d' : Nat} (hl : d' ∈ openAfter l d) (hr : l.inRange)
    (hs : InvOpen d s) : Answers E (InvOpen d') (l.run s) := by
  cases l with
  | put8 | put16 | put32 | putn =>
    obtain rfl : d = d' := Option.some.inj hl
    exact answers_append hs _ hE.pending hE.small
  | putf =>
    obtain rfl : d = d' := Option.some.inj hl
    exact answers_asmPutf hs (.inl hr) hE.small
  | rsv8 =>
    obtain rfl : d + 1 = d' := Option.some.inj hl
    exact answers_asmRsv8 hs hE.pending hE.full hE.small
  | patch =>
    cases d with
    | zero => cases hl
    | succ d =>
      obtain rfl : d = d' := Option.some.inj hl
      exact answers_asmPatch hs hE.pending hE.long

theorem answers_runLines (hE : LineErrors E) {ls : List Line} (hls : ClosesOwn d ls) (hr : ∀ l ∈ ls, l.inRange)
    (hs : InvOpen d s) (hok : s.status = 0#3) : Answers E (InvOpen 0) (runLines ls s) := by
  induction ls generalizing s d with
  | nil => exact ⟨s, rfl, hs.1, .inl ⟨hok, hs.1.invOpen⟩⟩
  | cons l ls ih =>
    obtain ⟨d', hl, hrest⟩ := hls
    obtain ⟨hrl, hr⟩ := List.forall_mem_cons.1 hr
    obtain ⟨t, ht, hInv, ⟨hok', ht'⟩ | hend⟩ := answers_line hE hl hrl hs
    · rw [runLines_cons_ok ls ht hok']
      exact ih hrest hr ht' hok'
    · obtain ⟨e, he, hstatus, hresult⟩ := hend
      rw [runLines_cons_error ls ht (hstatus ▸ statusCode_ne_zero e)]
      exact ⟨t, rfl, hInv, .inr ⟨e, he, hstatus, hresult⟩⟩

/-- A PACK with a balanced body of fields in range (R96). -/
theorem answers_packLines (hE : LineErrors E) (tag : Byte) {body : List Line} (hbody : Balanced body)
    (hr : ∀ l ∈ body, l.inRange) (hs : Inv s) : Answers E (InvOpen 0) (runLines (packLines tag body) s) := by
  have hrest : ClosesOwn 0 (lenPrefixed body) := by simpa using hbody.lenPrefixed 0 [] trivial
  have hr' : ∀ l ∈ lenPrefixed body, l.inRange :=
    List.forall_mem_cons.2 ⟨trivial, List.forall_mem_append.2 ⟨hr, List.forall_mem_singleton.2 trivial⟩⟩
  obtain ⟨t, ht, hInv, ⟨hok, -⟩ | hend⟩ := answers_append (E := E) hs.invOpen [tag] hE.pending hE.small
  · rw [packLines, runLines_cons_ok (l := .put8 tag) _ ht hok]
    exact answers_runLines hE hrest hr' hInv.invOpen hok
  · obtain ⟨e, he, hstatus, hresult⟩ := hend
    rw [packLines, runLines_cons_error (l := .put8 tag) _ ht (hstatus ▸ statusCode_ne_zero e)]
    exact ⟨t, rfl, hInv, .inr ⟨e, he, hstatus, hresult⟩⟩

end

/-! ### The fields of the kinds are in range -/

/-- All fields that the lines pack are in range. -/
abbrev AllInRange (ls : List Line) : Prop := ∀ l ∈ ls, l.inRange

theorem AllInRange.append {as bs : List Line} (ha : AllInRange as) (hb : AllInRange bs) : AllInRange (as ++ bs) :=
  List.forall_mem_append.2 ⟨ha, hb⟩

theorem AllInRange.flatMap {α : Type} {f : α → List Line} (hf : ∀ x, AllInRange (f x)) (xs : List α) :
    AllInRange (xs.flatMap f) := by
  intro l hl
  obtain ⟨x, -, hx⟩ := List.mem_flatMap.1 hl
  exact hf x l hx

theorem AllInRange.lenPrefixed {body : List Line} (hb : AllInRange body) : AllInRange (lenPrefixed body) :=
  List.forall_mem_cons.2 ⟨trivial, hb.append (List.forall_mem_singleton.2 trivial)⟩

/-- Lines that pack no bits. -/
def Line.wholeBytes : Line → Bool
  | .putf _ _ => false
  | _ => true

theorem allInRange_of_wholeBytes {ls : List Line} (h : ls.all Line.wholeBytes = true) : AllInRange ls := by
  intro l hl
  have hbytes := List.all_eq_true.1 h l hl
  cases l with
  | putf => cases hbytes
  | _ => trivial

theorem allInRange_put32s (vs : List Word) : AllInRange (vs.map .put32) :=
  allInRange_of_wholeBytes (by simp [Line.wholeBytes])

theorem allInRange_put16Opt (v : Option Half) : AllInRange (put16Opt v) := by
  cases v <;> exact allInRange_of_wholeBytes rfl

theorem allInRange_textLines (t : List Byte) : AllInRange (textLines t) := allInRange_of_wholeBytes rfl

theorem allInRange_satDeliveryLines (v : SatDelivery) : AllInRange (satDeliveryLines v) := by
  simp only [AllInRange, satDeliveryLines, List.forall_mem_cons]
  exact ⟨trivial, trivial, inRange_putBits _, inRange_putBits _, inRange_putBits _, inRange_putBits _,
    inRange_putBits _, inRange_putBits _, inRange_putBits _, nofun⟩

theorem allInRange_cableDeliveryLines (v : CableDelivery) : AllInRange (cableDeliveryLines v) := by
  simp only [AllInRange, cableDeliveryLines, List.forall_mem_cons]
  exact ⟨trivial, inRange_putBits _, inRange_putBits _, trivial, inRange_putBits _, inRange_putBits _, nofun⟩

theorem allInRange_terrDeliveryLines (v : TerrDelivery) : AllInRange (terrDeliveryLines v) := by
  simp only [AllInRange, terrDeliveryLines, List.forall_mem_cons]
  exact ⟨trivial, inRange_putBits _, inRange_putBits _, inRange_putBits _, inRange_putBits _, inRange_putBits _,
    inRange_putBits _, inRange_putBits _, inRange_putBits _, inRange_putBits _, inRange_putBits _,
    inRange_putBits _, inRange_putBits _, trivial, nofun⟩

theorem allInRange_serviceListLines (es : List ServiceEntry) : AllInRange (serviceListLines es) :=
  .flatMap (fun _ => allInRange_of_wholeBytes rfl) es

theorem allInRange_handOverLines (v : HandOver) : AllInRange (handOverLines v) := by
  refine (AllInRange.append ?_ (allInRange_put16Opt _)).append (allInRange_put16Opt _)
  simp only [AllInRange, List.forall_mem_cons]
  exact ⟨inRange_putBits _, inRange_putBits _, inRange_putBits _, nofun⟩

theorem allInRange_eventLines (v : LinkEvent) : AllInRange (eventLines v) := by
  simp only [AllInRange, eventLines, List.forall_mem_cons]
  exact ⟨trivial, inRange_putBits _, inRange_putBits _, inRange_putBits _, nofun⟩

theorem allInRange_targetLines (v : LinkTarget) : AllInRange (targetLines v) := by
  refine ((((AllInRange.append ?_ (allInRange_put16Opt _)).append (allInRange_put16Opt _)).append
    (allInRange_put16Opt _)).append (allInRange_put16Opt _))
  simp only [AllInRange, List.forall_mem_cons]
  exact ⟨trivial, inRange_putBits _, inRange_putBits _, inRange_putBits _, inRange_putBits _, inRange_putBits _,
    inRange_putBits _, nofun⟩

theorem allInRange_trailerLines (v : LinkageTrailer) : AllInRange (trailerLines v) := by
  cases v with
  | absent => exact nofun
  | handOver v => exact allInRange_handOverLines v
  | event v => exact allInRange_eventLines v
  | targets vs => exact (AllInRange.flatMap allInRange_targetLines vs).lenPrefixed

theorem allInRange_linkageLines (v : Linkage) : AllInRange (linkageLines v) :=
  (AllInRange.append (allInRange_of_wholeBytes rfl) (allInRange_trailerLines _)).append (allInRange_of_wholeBytes rfl)

theorem allInRange_blockLines (b : LangBlock) : AllInRange (blockLines b) := allInRange_of_wholeBytes rfl

theorem allInRange_mlComponentLines (v : MlComponent) : AllInRange (mlComponentLines v) :=
  List.forall_mem_cons.2 ⟨trivial, AllInRange.flatMap allInRange_blockLines _⟩

theorem allInRange_extendedEventLines (v : ExtendedEvent) : AllInRange (extendedEventLines v) := by
  have hitems : AllInRange (v.items.flatMap itemLines) := .flatMap (fun _ => allInRange_of_wholeBytes rfl) _
  refine (AllInRange.append ?_ hitems.lenPrefixed).append (allInRange_textLines _)
  simp only [AllInRange, List.forall_mem_cons]
  exact ⟨inRange_putBits _, inRange_putBits _, trivial, nofun⟩

theorem allInRange_frequencyListLines (v : FrequencyList) : AllInRange (frequencyListLines v) := by
  refine AllInRange.append ?_ (allInRange_put32s _)
  simp only [AllInRange, List.forall_mem_cons]
  exact ⟨inRange_putBits _, inRange_putBits _, nofun⟩

theorem allInRange_cellLines (tfs : BitVec 1) (c : T2Cell) : AllInRange (cellLines tfs c) := by
  have hfrequencies : AllInRange
      (if tfs = 1#1 then lenPrefixed (c.frequencies.map .put32) else c.frequencies.map .put32) := by
    split
    next => exact (allInRange_put32s _).lenPrefixed
    next => exact allInRange_put32s _
  have hsubcells : AllInRange (c.subcells.flatMap subcellLines) := .flatMap (fun _ => allInRange_of_wholeBytes rfl) _
  exact (AllInRange.append (allInRange_of_wholeBytes rfl) hfrequencies).append hsubcells.lenPrefixed

theorem allInRange_t2BodyLines (v : T2Delivery) : AllInRange (t2BodyLines v) := by
  unfold t2BodyLines
  refine AllInRange.append (allInRange_of_wholeBytes rfl) ?_
  split
  next => exact nofun
  next l =>
    refine AllInRange.append ?_ (.flatMap (allInRange_cellLines _) _)
    simp only [AllInRange, List.forall_mem_cons]
    exact ⟨inRange_putBits _, inRange_putBits _, inRange_putBits _, inRange_putBits _, inRange_putBits _,
      inRange_putBits _, inRange_putBits _, nofun⟩

theorem allInRange_extensionLines (x : Byte) (body : List Byte) : AllInRange (extensionLines x body) := by
  refine List.forall_mem_cons.2 ⟨trivial, ?_⟩
  split
  next =>
    split
    next v _ => exact allInRange_t2BodyLines v
    next => exact allInRange_of_wholeBytes rfl
  next => exact allInRange_of_wholeBytes rfl

/-! ### Every instruction -/

/-- The rows of all pseudo-instructions are the same. -/
theorem lineErrors_of_row {i : Instr} (hrow : mayRaise i = ([1#3, 3#3], [2, 4])) : LineErrors (allows i · = true) := by
  constructor <;> simp [allows, hrow, statusCode, reasonCode]

/-- In a state that keeps the invariant, every instruction answers a next state that keeps it, and only with an error of
its row. -/
theorem exec_answers (i : Instr) {s : State} (hs : Inv s) : Answers (allows i · = true) (InvOpen 0) (exec i s) := by
  cases i with
  | csrRd n => exact answers_csrRd hs n rfl
  | bufRd => exact answers_finish hs (.check rfl fun h => (meets_bufRead hs h).bind fun _ _ => hs.invOpen)
  | obufRd => exact answers_finish hs (.check rfl fun h => (meets_obufRead hs h).bind fun _ _ => hs.invOpen)
  | asmReset cap =>
    exact answers_finish hs (.check rfl fun hcap => (hs.asmClear hcap).invOpen)
  | asmPut8 | asmPut16 | asmPut32 | asmPutn | wireDescriptor | wireLengthWord | wireSectionHeader | wireEntityHeader
  | wireCrcTrailer | wireTsHeader | wirePointerField => exact answers_append hs.invOpen _ rfl fun _ => rfl
  | asmPutf => exact answers_asmPutf hs.invOpen (.inr rfl) fun _ => rfl
  | asmRsv8 =>
    exact (answers_asmRsv8 (E := (allows .asmRsv8 · = true)) hs.invOpen rfl rfl fun _ => rfl).mono
      fun _ ht => ht.1.invOpen
  | asmRsv12 => exact answers_asmRsv12 hs _ rfl rfl rfl fun _ => rfl
  | asmPatch => exact answers_asmPatch_any hs rfl rfl fun _ => rfl
  | descSize => exact answers_descSize hs _ _ rfl fun _ => rfl
  | descEnc tag p => exact answers_descEnc hs tag p rfl rfl rfl (fun _ => rfl) fun _ => rfl
  | descDec k b => exact answers_descDec hs k b rfl (fun _ => rfl) fun _ => rfl
  | secInit => exact answers_secInit hs _ _ _ _ rfl
  | secAddd => exact answers_secAddd hs _ _ rfl rfl fun _ => rfl
  | secAdde => exact answers_secAdde hs _ _ rfl
  | entAddd => exact answers_entAddd hs _ _ _ rfl rfl rfl fun _ => rfl
  | secSize | pktSize => exact answers_finish hs (.check rfl fun _ => hs.invOpen)
  | secEnc cap => exact answers_secEnc hs cap rfl rfl (fun _ => rfl) fun _ => rfl
  | crcCalc =>
    exact answers_finish hs (.check rfl fun _ => .check rfl fun h => (meets_bufRead hs h).bind fun _ _ => hs.invOpen)
  | pktEnc cap => exact answers_pktEnc hs cap rfl rfl fun _ => rfl
  | packNetworkName | packPrivateDataSpec | packOpaque =>
    exact answers_packLines (lineErrors_of_row rfl) _ (balanced_of_plain rfl) (allInRange_of_wholeBytes rfl) hs
  | packServiceList =>
    exact answers_packLines (lineErrors_of_row rfl) _ (balanced_serviceListLines _) (allInRange_serviceListLines _) hs
  | packSatDelivery =>
    exact answers_packLines (lineErrors_of_row rfl) _ (balanced_of_plain rfl) (allInRange_satDeliveryLines _) hs
  | packCableDelivery =>
    exact answers_packLines (lineErrors_of_row rfl) _ (balanced_of_plain rfl) (allInRange_cableDeliveryLines _) hs
  | packTerrDelivery =>
    exact answers_packLines (lineErrors_of_row rfl) _ (balanced_of_plain rfl) (allInRange_terrDeliveryLines _) hs
  | packLinkage =>
    exact answers_packLines (lineErrors_of_row rfl) _ (balanced_linkageLines _) (allInRange_linkageLines _) hs
  | packShortEvent =>
    exact answers_packLines (lineErrors_of_row rfl) _ (balanced_shortEventLines _) (allInRange_of_wholeBytes rfl) hs
  | packExtendedEvent =>
    exact answers_packLines (lineErrors_of_row rfl) _ (balanced_extendedEventLines _) (allInRange_extendedEventLines _) hs
  | packMlNetworkName =>
    exact answers_packLines (lineErrors_of_row rfl) _ (.flatMap balanced_blockLines _)
      (AllInRange.flatMap allInRange_blockLines _) hs
  | packMlComponent =>
    exact answers_packLines (lineErrors_of_row rfl) _ (balanced_mlComponentLines _) (allInRange_mlComponentLines _) hs
  | packFrequencyList =>
    exact answers_packLines (lineErrors_of_row rfl) _ (balanced_frequencyListLines _) (allInRange_frequencyListLines _) hs
  | packDataBroadcast =>
    exact answers_packLines (lineErrors_of_row rfl) _ (balanced_dataBroadcastLines _) (allInRange_of_wholeBytes rfl) hs
  | packExtension =>
    exact answers_packLines (lineErrors_of_row rfl) _ (balanced_extensionLines _ _) (allInRange_extensionLines _ _) hs
  | packExtensionT2 v =>
    exact answers_packLines (lineErrors_of_row rfl) _ (.cons rfl (balanced_t2BodyLines v))
      (List.forall_mem_cons.2 ⟨trivial, allInRange_t2BodyLines v⟩) hs

/-- Settles O44: an allowed error is one of the row's codes, or BadCommand with one of its reasons. -/
theorem commandsRaiseOnlyTheirErrors : Obligations.CommandsRaiseOnlyTheirErrors := by
  intro i s t hs hx
  obtain ⟨t', ht', -, ⟨hok, -⟩ | ⟨e, he, hstatus, hresult⟩⟩ := exec_answers i hs
  all_goals obtain rfl : t' = t := Host.Outcome.next.inj (ht'.symm.trans hx)
  · exact .inl hok
  · rw [hstatus, hresult]
    cases e with
    | badCommand r =>
      have hcode : (BitVec.ofNat 32 (reasonCode r)).toNat = reasonCode r := by cases r <;> rfl
      exact .inr (.inr ⟨rfl, hcode ▸ List.contains_iff_mem.1 he⟩)
    | _ => exact .inr (.inl (List.contains_iff_mem.1 he))

/-! ### Every step -/

/-- CRC.APPEND is two commands that keep the invariant (R96). -/
theorem execCrcAppend_safe {s : State} (hs : Inv s) : ∃ t, execCrcAppend s = .next t ∧ Inv t := by
  obtain ⟨t, ht, hInv, -⟩ := exec_answers (.crcCalc 0#16 s.wp) hs
  have hcalc : execCrcCalc 0#16 s.wp s = .next t := ht
  rw [execCrcAppend, hcalc]
  dsimp only
  split
  next =>
    obtain ⟨u, hu, hInv', -⟩ := exec_answers (.asmPut32 t.result) hInv
    exact ⟨u, hu, hInv'⟩
  next => exact ⟨t, rfl, hInv⟩

theorem serveItem_safe (item : PortItem) {s : State} (hs : Inv s) : ∃ t, serveItem item s = .next t ∧ Inv t := by
  have hexec (i : Instr) : ∃ t, exec i s = .next t ∧ Inv t := by
    obtain ⟨t, ht, hInv, -⟩ := exec_answers i hs
    exact ⟨t, ht, hInv⟩
  cases item with
  | frame f =>
    change ∃ t, serveFrame f s = .next t ∧ Inv t
    cases hf : decodeFrame f with
    | ok i =>
      rw [serveFrame_of_ok hf]
      exact hexec i
    | error e =>
      rw [serveFrame_of_error hf]
      exact ⟨_, rfl, hs.raiseErr _⟩
  | listing i => exact hexec i
  | crcAppend => exact execCrcAppend_safe hs
  | reset => exact ⟨_, rfl, invariantHoldsAtReset.withPort s.port⟩

/-- From a state that keeps the invariant, a step answers a state that keeps it. -/
theorem safeStep_of_inv {s : State} (hs : Inv s) : SafeStep s := by
  unfold SafeStep
  cases hport : s.port with
  | nil => exact ⟨s, step_of_port_nil hport, hs⟩
  | cons item rest =>
    rw [step_of_port_cons hport]
    exact serveItem_safe item (hs.withPort rest)

/-- Settles O52: the state that `safeStep_of_inv` gives is the one that the step answers. -/
theorem invariantIsKeptByEveryStep : Obligations.InvariantIsKeptByEveryStep := by
  intro s t hs hstep
  obtain ⟨t', ht', hInv⟩ := safeStep_of_inv hs
  obtain rfl : t' = t := Host.Outcome.next.inj (ht'.symm.trans hstep)
  exact hInv

/-- Settles O53: no cell that a command reads is unwritten, and no instruction is refused. -/
theorem stepAlwaysAnswers : Obligations.StepAlwaysAnswers := by
  intro s hs
  obtain ⟨t, ht, -⟩ := safeStep_of_inv hs
  exact ⟨t, ht⟩

end Sys2Proof.Machine
end

section
/-! PROOFS. What each instruction leaves as it was, from every state (spec 10_state.md R29, R37, 30_encoding.md R71): the
columns that its row does not name, the canonical form of the memories, ENC_VALID and ENC_LEN, and the response. -/

namespace Sys2Proof.Machine

-- Each proof is checked before the next one begins: many at once would wait on one another in threads.
set_option Elab.async false

/-! ### Columns that are not touched -/

theorem Untouched.refl (w : Touch) (s : State) : Untouched w s s :=
  ⟨fun _ => ⟨rfl, rfl, rfl, rfl, rfl⟩, fun _ => ⟨rfl, rfl⟩, fun _ => rfl, fun _ => rfl, fun _ => rfl, fun _ => rfl,
    fun _ => ⟨rfl, rfl⟩, fun _ => ⟨rfl, rfl⟩, fun _ => ⟨rfl, rfl⟩, rfl⟩

theorem Untouched.trans {w : Touch} {s t u : State} (h : Untouched w s t) (h' : Untouched w t u) : Untouched w s u where
  sRegs hw := by
    obtain ⟨h1, h2, h3, h4, h5⟩ := h.sRegs hw
    obtain ⟨h1', h2', h3', h4', h5'⟩ := h'.sRegs hw
    exact ⟨h1'.trans h1, h2'.trans h2, h3'.trans h3, h4'.trans h4, h5'.trans h5⟩
  sLists hw := ⟨(h'.sLists hw).1.trans (h.sLists hw).1, (h'.sLists hw).2.trans (h.sLists hw).2⟩
  buf hw := (h'.buf hw).trans (h.buf hw)
  wp hw := (h'.wp hw).trans (h.wp hw)
  cap hw := (h'.cap hw).trans (h.cap hw)
  pstk hw := (h'.pstk hw).trans (h.pstk hw)
  bacc hw := ⟨(h'.bacc hw).1.trans (h.bacc hw).1, (h'.bacc hw).2.trans (h.bacc hw).2⟩
  enc hw := ⟨(h'.enc hw).1.trans (h.enc hw).1, (h'.enc hw).2.trans (h.enc hw).2⟩
  obuf hw := ⟨(h'.obuf hw).1.trans (h.obuf hw).1, (h'.obuf hw).2.trans (h.obuf hw).2⟩
  port := h'.port.trans h.port

/-- An answer is in no column. -/
theorem Untouched.answered {w : Touch} {s t : State} (h : Untouched w s t) (code : BitVec 3) (v : Word)
    (data : List Byte) : Untouched w s (t.answered code v data) :=
  ⟨h.sRegs, h.sLists, h.buf, h.wp, h.cap, h.pstk, h.bacc, h.enc, h.obuf, h.port⟩

/-- `t` differs from `s` in the columns of `w` alone, ENC_LEN apart, and BUF keeps its canonical form. -/
structure Kept (w : Touch) (s t : State) : Prop where
  untouched : Untouched w s t
  encLen : t.encLen = s.encLen
  canonical : Memory.wf s.buf → Memory.wf t.buf

theorem Kept.refl (w : Touch) (s : State) : Kept w s s := ⟨.refl w s, rfl, id⟩

theorem Kept.trans {w : Touch} {s t u : State} (h : Kept w s t) (h' : Kept w t u) : Kept w s u :=
  ⟨h.untouched.trans h'.untouched, h'.encLen.trans h.encLen, h'.canonical ∘ h.canonical⟩

/-! ### What the operations of the assembly unit touch -/

section
variable {w : Touch} {s : State}

theorem kept_appended (hbuf : w.buf = true) (hwp : w.wp = true) (henc : w.enc = true) (bs : List Byte) :
    Kept w s (appended bs s) := by
  refine ⟨?_, rfl, write_wf _ bs⟩
  constructor <;> simp [appended, hbuf, hwp, henc]

theorem kept_reserved (hbuf : w.buf = true) (hwp : w.wp = true) (hpstk : w.pstk = true) (henc : w.enc = true)
    (kind : FieldKind) (bs : List Byte) : Kept w s (reserved kind bs s) := by
  refine ⟨?_, rfl, write_wf _ bs⟩
  constructor <;> simp [reserved, appended, hbuf, hwp, hpstk, henc]

theorem kept_packedField (hbuf : w.buf = true) (hwp : w.wp = true) (hbacc : w.bacc = true) (henc : w.enc = true)
    (n : Nat) (v : Word) : Kept w s (packedField n v s) := by
  refine ⟨?_, rfl, write_wf _ _⟩
  constructor <;> simp [packedField, hbuf, hwp, hbacc, henc]

theorem kept_closed (hbuf : w.buf = true) (hpstk : w.pstk = true) (henc : w.enc = true) (a : Nat) (bs : List Byte)
    (rest : List PatchEntry) :
    Kept w s { s with buf := Memory.write s.buf a bs, pstk := rest, encValid := false } := by
  refine ⟨?_, rfl, write_wf a bs⟩
  constructor <;> simp [hbuf, hpstk, henc]

theorem appendBytes_kept (hbuf : w.buf = true) (hwp : w.wp = true) (henc : w.enc = true) (bs : List Byte) :
    Ensures (fun t => Kept w s t ∧ t.encValid = false) (appendBytes bs s) := by
  intro t ht
  obtain ⟨-, -, -, rfl⟩ := appendBytes_ok ht
  exact ⟨kept_appended hbuf hwp henc bs, rfl⟩

theorem reserve_kept (hbuf : w.buf = true) (hwp : w.wp = true) (hpstk : w.pstk = true) (henc : w.enc = true)
    (kind : FieldKind) (bs : List Byte) :
    Ensures (fun t => Kept w s t ∧ t.encValid = false) (reserve kind bs s) := by
  intro t ht
  obtain ⟨-, -, -, -, rfl⟩ := reserve_ok ht
  exact ⟨kept_reserved hbuf hwp hpstk henc kind bs, rfl⟩

theorem putField_kept (hbuf : w.buf = true) (hwp : w.wp = true) (hbacc : w.bacc = true) (henc : w.enc = true)
    (n : Nat) (v : Word) : Ensures (fun t => Kept w s t ∧ t.encValid = false) (putField n v s) := by
  rw [putField_eq]
  split_ifs
  · exact .ok ⟨kept_packedField hbuf hwp hbacc henc n v, rfl⟩
  · exact .error _
  · exact .error _

theorem patchTop_kept (hbuf : w.buf = true) (hpstk : w.pstk = true) (henc : w.enc = true) :
    Ensures (fun r => Kept w s r.1 ∧ r.1.encValid = false) (patchTop s) := by
  intro r hr
  obtain ⟨-, e, rest, -, -, ⟨-, -, hstate⟩ | ⟨-, -, b0, -, hstate⟩⟩ := patchTop_ok hr
  all_goals
    rw [hstate]
    exact ⟨kept_closed hbuf hpstk henc _ _ rest, rfl⟩

end

/-! ### Descriptors and sections -/

/-- Work that has succeeded, taken apart at its first part. -/
theorem exists_of_bind_eq_ok {α β : Type} {x : Except Stop α} {f : α → Except Stop β} {b : β} (h : x >>= f = .ok b) :
    ∃ a, x = .ok a ∧ f a = .ok b := by
  cases x with
  | error e => cases h
  | ok a => exact ⟨a, rfl, h⟩

theorem encDescriptor_eq (d : Descriptor) (s : State) :
    encDescriptor d s = appendBytes [d.tag] s >>= fun t => reserve8 t >>= fun t => appendBytes d.payload t >>= fun t =>
      patchTop t >>= fun r => .ok r.1 := rfl

/-- A descriptor in BUF, without a word about its bytes (R138): the field that is reserved for its length is the one
that is closed. -/
theorem encDescriptor_ok {d : Descriptor} {s t : State} (h : encDescriptor d s = .ok t) :
    t = { s with buf := t.buf, wp := t.wp, encValid := false } ∧ (Memory.wf s.buf → Memory.wf t.buf) := by
  rw [encDescriptor_eq] at h
  obtain ⟨t₁, h₁, hrest₁⟩ := exists_of_bind_eq_ok h
  obtain ⟨t₂, h₂, hrest₂⟩ := exists_of_bind_eq_ok hrest₁
  obtain ⟨t₃, h₃, hrest₃⟩ := exists_of_bind_eq_ok hrest₂
  obtain ⟨r, hr, hdone⟩ := exists_of_bind_eq_ok hrest₃
  obtain ⟨-, -, -, rfl⟩ := appendBytes_ok h₁
  obtain ⟨-, -, -, -, rfl⟩ := reserve_ok h₂
  obtain ⟨-, -, -, rfl⟩ := appendBytes_ok h₃
  obtain rfl : r.1 = t := Except.ok.inj hdone
  generalize hu : appended d.payload (reserved .w8 [Config.placeholder] (appended [d.tag] s)) = u at hr
  have hopen : u = { s with buf := u.buf, wp := u.wp, encValid := false, pstk := u.pstk } := by rw [← hu]; rfl
  have htop : u.pstk = ⟨(appended [d.tag] s).wp, .w8⟩ :: s.pstk := by rw [← hu]; rfl
  have hwf (hs : Memory.wf s.buf) : Memory.wf u.buf := by
    rw [← hu]
    exact write_wf _ _ (write_wf _ _ (write_wf _ _ hs))
  obtain ⟨-, e, rest, hpstk, -, ⟨-, -, hstate⟩ | ⟨-, -, b0, -, hstate⟩⟩ := patchTop_ok hr
  all_goals
    obtain ⟨-, rfl⟩ := List.cons.inj (htop.symm.trans hpstk)
    rw [hstate]
    exact ⟨by rw [hopen], fun hs => write_wf _ _ (hwf hs)⟩

section
variable {w : Touch} {s : State}

theorem encDescriptor_kept (hbuf : w.buf = true) (hwp : w.wp = true) (henc : w.enc = true) (d : Descriptor) :
    Ensures (fun t => Kept w s t ∧ t.encValid = false) (encDescriptor d s) := by
  intro t ht
  obtain ⟨hstate, hwf⟩ := encDescriptor_ok ht
  refine ⟨⟨?_, by rw [hstate], hwf⟩, by rw [hstate]⟩
  rw [hstate]
  constructor <;> simp [hbuf, hwp, henc]

/-- The row of SEC.ENC. -/
abbrev secEncTouch : Touch := touch (.secEnc 0#16)

theorem untouched_asmClear {cap : Half} : Untouched secEncTouch s (asmClear cap s) := by
  constructor <;> simp [secEncTouch, touch]

theorem encDescriptors_kept (ds : List Descriptor) {s₀ : State} (hs : Kept secEncTouch s₀ s) :
    Ensures (Kept secEncTouch s₀) (encDescriptors ds s) := by
  induction ds generalizing s with
  | nil => exact .ok hs
  | cons d ds ih => exact (encDescriptor_kept rfl rfl rfl d).bind fun t ht => ih (hs.trans ht.1)

end

section
variable {s s₀ : State}

theorem reserve12_kept (hi : BitVec 4) (hs : Kept secEncTouch s₀ s) : Ensures (Kept secEncTouch s₀) (reserve12 hi s) :=
  fun t ht => hs.trans (reserve_kept rfl rfl rfl rfl _ _ t ht).1

theorem closing_kept (hs : Kept secEncTouch s₀ s) : Ensures (fun r => Kept secEncTouch s₀ r.1) (patchTop s) :=
  fun r hr => hs.trans (patchTop_kept rfl rfl rfl r hr).1

theorem putting_kept (bs : List Byte) (hs : Kept secEncTouch s₀ s) : Ensures (Kept secEncTouch s₀) (appendBytes bs s) :=
  fun t ht => hs.trans (appendBytes_kept rfl rfl rfl bs t ht).1

theorem encEntity_kept (edl : Bool) (e : Entity) (hs : Kept secEncTouch s₀ s) :
    Ensures (Kept secEncTouch s₀) (encEntity edl e s) := by
  refine (putting_kept _ hs).bind fun t ht => ?_
  cases edl with
  | false => exact encDescriptors_kept _ ht
  | true =>
    exact (reserve12_kept _ ht).bind fun _ hRsv => (encDescriptors_kept _ hRsv).bind fun _ hDescs =>
      (closing_kept hDescs).bind fun _ hPatch => .ok hPatch

theorem encEntities_kept (edl : Bool) (es : List Entity) (hs : Kept secEncTouch s₀ s) :
    Ensures (Kept secEncTouch s₀) (encEntities edl es s) := by
  induction es generalizing s with
  | nil => exact .ok hs
  | cons e es ih => exact (encEntity_kept edl e hs).bind fun _ he => ih he

/-- All sub-steps of SEC.ENC (R206) keep what its row does not name; the last of them sets ENC_VALID and ENC_LEN. -/
theorem encSection_ensures (edl : Bool) (cap : Half) (n : Nat) (s : State) :
    Ensures (fun t => Untouched secEncTouch s t ∧ Memory.wf t.buf ∧ t.encValid = true ∧ t.encLen = BitVec.ofNat 16 n)
      (encSection edl cap n s) :=
  (putting_kept _ (.refl secEncTouch (asmClear cap s))).bind fun _ hHeader =>
  (reserve12_kept _ hHeader).bind fun _ hRsv =>
  (encDescriptors_kept _ hRsv).bind fun _ hDescs =>
  (closing_kept hDescs).bind fun _ hPatch =>
  (reserve12_kept _ hPatch).bind fun _ hRsv' =>
  (encEntities_kept edl _ hRsv').bind fun _ hEnts =>
  (closing_kept hEnts).bind fun _ hPatch' =>
  .after fun _ => (putting_kept _ hPatch').bind fun _ hCrc =>
  .ok ⟨untouched_asmClear.trans (hCrc.untouched.trans (by constructor <;> simp [secEncTouch, touch])),
    hCrc.canonical .nil, rfl, rfl⟩

end

/-! ### What the work of a command does -/

/-- What the work of `i` from `s` leaves when it succeeds: the columns of its row (R37), ENC_VALID and ENC_LEN (R29), the
canonical memories, and data only from a read-back command (R71). -/
structure Effect (i : Instr) (s : State) (x : Done) : Prop where
  untouched : Untouched (touch i) s x.state
  bufCanonical : Memory.wf s.buf → Memory.wf x.state.buf
  obufCanonical : Memory.wf s.obuf → Memory.wf x.state.obuf
  encValid : x.state.encValid = encAfter i s.encValid
  encLen : (∃ cap : Half, i = .secEnc cap) ∧ x.state.encLen = BitVec.ofNat 16 (secSize Config.entityDescLen s) ∨
    (∀ cap : Half, i ≠ .secEnc cap) ∧ x.state.encLen = s.encLen
  data : x.data ≠ [] → x.data.length = x.value ∧ x.value < 2 ^ 32 ∧ ∃ off n : Half, i = .bufRd off n ∨ i = .obufRd off n

section
variable {i : Instr} {s : State}

/-- Work that changes nothing. -/
theorem Effect.of_same (henc : encAfter i s.encValid = s.encValid) (v : Nat)
    (hi : ∀ cap : Half, i ≠ .secEnc cap := by nofun) : Effect i s { state := s, value := v } :=
  ⟨.refl _ s, id, id, henc.symm, .inr ⟨hi, rfl⟩, fun h => absurd rfl h⟩

/-- Work that the rules of `Kept` cover. -/
theorem Effect.of_kept {t : State} (ht : Kept (touch i) s t ∧ t.encValid = false) (hrow : (touch i).enc = true)
    (hobuf : (touch i).obuf = false) (v : Nat) (hi : ∀ cap : Half, i ≠ .secEnc cap := by nofun) :
    Effect i s { state := t, value := v } where
  untouched := ht.1.untouched
  bufCanonical := ht.1.canonical
  obufCanonical h := by
    rw [(ht.1.untouched.obuf hobuf).1]
    exact h
  encValid := by
    have hclear : encAfter i s.encValid = if (touch i).enc then false else s.encValid := by
      unfold encAfter
      split
      next cap => exact absurd rfl (hi cap)
      next => rfl
    rw [ht.2, hclear, if_pos hrow]
  encLen := .inr ⟨hi, ht.1.encLen⟩
  data h := absurd rfl h

theorem appendDone_effect (hbuf : (touch i).buf = true) (hwp : (touch i).wp = true) (henc : (touch i).enc = true)
    (hobuf : (touch i).obuf = false) (bs : List Byte) (hi : ∀ cap : Half, i ≠ .secEnc cap := by nofun) :
    Ensures (Effect i s) (appendDone bs s) :=
  (appendBytes_kept hbuf hwp henc bs).bind fun _ ht => .ok (.of_kept ht henc hobuf _ hi)

end

/-- The bytes that a read gives are as many as it was asked for. -/
theorem length_takeRun {n a : Nat} {m : Memory} {bs : List Byte} (h : takeRun n a m = some bs) : bs.length = n := by
  induction n generalizing a m bs with
  | zero =>
    obtain rfl : [] = bs := by simpa [takeRun] using h
    rfl
  | succ n ih =>
    cases m with
    | nil => cases h
    | cons c m =>
      rw [takeRun] at h
      split at h
      next =>
        obtain ⟨cs, hcs, rfl⟩ := Option.map_eq_some_iff.1 h
        rw [List.length_cons, ih hcs]
      next => cases h

/-- `i` is done in one piece, by work whose effect is `Effect` (R277). -/
def OneCommand (i : Instr) (s : State) : Prop := ∃ r, exec i s = finish s r ∧ Ensures (Effect i s) r

theorem oneCommand_bufRd (off n : Half) (s : State) : OneCommand (.bufRd off n) s := by
  refine ⟨_, rfl, .after fun _ => Ensures.bind (P := fun data => data.length = n.toNat) ?_ fun data hdata => .ok ?_⟩
  · exact fun data h => length_takeRun ((bufRead_ok_iff _ _ _ _).1 h)
  · exact ⟨.refl _ s, id, id, rfl, .inr ⟨fun _ => nofun, rfl⟩, fun _ => ⟨hdata, lt_trans n.isLt (by decide), off, n, .inl rfl⟩⟩

theorem oneCommand_obufRd (off n : Half) (s : State) : OneCommand (.obufRd off n) s := by
  refine ⟨_, rfl, .after fun _ => Ensures.bind (P := fun data => data.length = n.toNat) ?_ fun data hdata => .ok ?_⟩
  · exact fun data h => length_takeRun ((obufRead_ok_iff _ _ _ _).1 h)
  · exact ⟨.refl _ s, id, id, rfl, .inr ⟨fun _ => nofun, rfl⟩, fun _ => ⟨hdata, lt_trans n.isLt (by decide), off, n, .inr rfl⟩⟩

theorem oneCommand_csrRd (n : Byte) (s : State) : OneCommand (.csrRd n) s := by
  refine ⟨_, rfl, .after fun _ => ?_⟩
  split
  next => exact .ok (.of_same rfl _)
  next => exact .error _

theorem oneCommand_entAddd (h : Half) (tag : Byte) (p : List Byte) (s : State) : OneCommand (.entAddd h tag p) s := by
  refine ⟨_, rfl, .after fun _ => ?_⟩
  split
  next => exact .error _
  next =>
    refine .after fun d => .ok ⟨?_, id, id, rfl, .inr ⟨fun _ => nofun, rfl⟩, fun h => absurd rfl h⟩
    constructor <;> simp [touch]

theorem oneCommand_secEnc (cap : Half) (s : State) : OneCommand (.secEnc cap) s := by
  refine ⟨_, rfl, .after fun _ => .after fun _ => .after fun _ => .after fun _ =>
    (encSection_ensures _ cap _ s).bind fun t ht => .ok ?_⟩
  obtain ⟨huntouched, hwf, hvalid, hlen⟩ := ht
  refine ⟨huntouched, fun _ => hwf, fun h => ?_, hvalid, .inl ⟨⟨cap, rfl⟩, hlen⟩, fun h => absurd rfl h⟩
  rw [(huntouched.obuf rfl).1]
  exact h

theorem oneCommand_pktEnc (cap : Half) (s : State) : OneCommand (.pktEnc cap) s := by
  refine ⟨_, rfl, .after fun _ => .after fun _ => .after fun _ => .after fun sec =>
    Ensures.bind (P := fun t => t = { s with obuf := cellsFrom 0 (packets s.pid sec), olen := t.olen }) ?_ fun t ht => ?_⟩
  · intro t ht
    rw [((obufFill_ok_iff _ _ _).1 ht).2]
  · rw [ht]
    refine .ok ⟨?_, id, fun _ => cellsFrom_wf 0 _, rfl, .inr ⟨fun _ => nofun, rfl⟩, fun h => absurd rfl h⟩
    constructor <;> simp [touch]

/-- Every command, and every wire pattern, is done in one piece. -/
theorem oneCommand_of_format {i : Instr} (hi : i.format ≠ .tlv) (s : State) : OneCommand i s := by
  cases i with
  | csrRd n => exact oneCommand_csrRd n s
  | bufRd off n => exact oneCommand_bufRd off n s
  | obufRd off n => exact oneCommand_obufRd off n s
  | secSize | pktSize => exact ⟨_, rfl, .after fun _ => .ok (.of_same rfl _)⟩
  | descSize => exact ⟨_, rfl, .after fun _ => .ok (.of_same rfl _)⟩
  | descDec => exact ⟨_, rfl, .after fun _ => .after fun _ => .ok (.of_same rfl _)⟩
  | crcCalc => exact ⟨_, rfl, .after fun _ => .after fun _ => .after fun _ => .ok (.of_same rfl _)⟩
  | asmReset cap =>
    refine ⟨_, rfl, .after fun _ => .ok ⟨?_, fun _ => .nil, id, rfl, .inr ⟨fun _ => nofun, rfl⟩, fun h => absurd rfl h⟩⟩
    constructor <;> simp [touch]
  | asmPut8 | asmPut16 | asmPut32 | asmPutn | wireDescriptor | wireLengthWord | wireSectionHeader
  | wireEntityHeader | wireCrcTrailer | wireTsHeader | wirePointerField =>
    exact ⟨_, rfl, appendDone_effect rfl rfl rfl rfl _⟩
  | asmPutf w v =>
    exact ⟨_, rfl, .after fun _ => (putField_kept rfl rfl rfl rfl _ v).bind fun _ ht => .ok (.of_kept ht rfl rfl _)⟩
  | asmRsv8 =>
    exact ⟨_, rfl, (reserve_kept rfl rfl rfl rfl _ _).bind fun _ ht => .ok (.of_kept ht rfl rfl _)⟩
  | asmRsv12 =>
    exact ⟨_, rfl, .after fun _ => (reserve_kept rfl rfl rfl rfl _ _).bind fun _ ht => .ok (.of_kept ht rfl rfl _)⟩
  | asmPatch => exact ⟨_, rfl, (patchTop_kept rfl rfl rfl).bind fun _ ht => .ok (.of_kept ht rfl rfl _)⟩
  | descEnc =>
    exact ⟨_, rfl, .after fun _ => .after fun _ => .after fun d => .after fun _ =>
      (encDescriptor_kept rfl rfl rfl d).bind fun _ ht => .ok (.of_kept ht rfl rfl _)⟩
  | secInit | secAdde =>
    refine ⟨_, rfl, .after fun _ => .ok ⟨?_, id, id, rfl, .inr ⟨fun _ => nofun, rfl⟩, fun h => absurd rfl h⟩⟩
    constructor <;> simp [touch]
  | secAddd =>
    refine ⟨_, rfl, .after fun _ => .after fun _ => .ok ⟨?_, id, id, rfl, .inr ⟨fun _ => nofun, rfl⟩, fun h => absurd rfl h⟩⟩
    constructor <;> simp [touch]
  | entAddd h tag p => exact oneCommand_entAddd h tag p s
  | secEnc cap => exact oneCommand_secEnc cap s
  | pktEnc cap => exact oneCommand_pktEnc cap s
  | packNetworkName | packServiceList | packSatDelivery | packCableDelivery | packLinkage | packShortEvent
  | packExtendedEvent | packTerrDelivery | packMlNetworkName | packMlComponent | packPrivateDataSpec
  | packFrequencyList | packDataBroadcast | packExtension | packExtensionT2 | packOpaque => exact absurd rfl hi

/-- What such an instruction answers. -/
theorem exec_next_cases {i : Instr} (hi : i.format ≠ .tlv) {s t : State} (hx : exec i s = .next t) :
    (∃ x, Effect i s x ∧ t = complete x.value x.data x.state) ∨ ∃ e, t = raiseErr e s := by
  obtain ⟨r, hr, heffect⟩ := oneCommand_of_format hi s
  obtain ⟨x, hok, ht⟩ | ⟨e, -, ht⟩ := (finish_next_iff s t r).1 (hr ▸ hx)
  · exact .inl ⟨x, heffect x hok, ht⟩
  · exact .inr ⟨e, ht⟩

/-- Settles O46: an error leaves both registers, and a success what `Effect` says of them. -/
theorem encValidFollowsTheCommands : Obligations.EncValidFollowsTheCommands := by
  intro i s t hi hx
  obtain ⟨x, heffect, rfl⟩ | ⟨e, rfl⟩ := exec_next_cases (by rw [hi]; decide) hx
  · exact ⟨fun h => absurd rfl h, fun _ => ⟨heffect.encValid, heffect.encLen⟩⟩
  · exact ⟨fun _ => ⟨rfl, rfl⟩, fun h => absurd h (statusCode_ne_zero e)⟩

/-! ### Pseudo-instructions -/

/-- The row of the pseudo-instructions. -/
abbrev packTouch : Touch := { buf := true, wp := true, pstk := true, bacc := true, enc := true }

/-- `t` is an answer without data, on a state that has grown out of `s` by commands of the assembly unit. -/
structure PackStep (s t : State) : Prop where
  untouched : Untouched packTouch s t
  canonical : Memory.wf s.buf → Memory.wf t.buf
  response : t.resp = response t.status t.result []

theorem PackStep.trans {s t u : State} (h : PackStep s t) (h' : PackStep t u) : PackStep s u :=
  ⟨h.untouched.trans h'.untouched, h'.canonical ∘ h.canonical, h'.response⟩

/-- A command whose work keeps what the pseudo-instructions keep, and reads no data. -/
theorem packStep_finish {s t : State} {r : Except Stop Done}
    (hr : Ensures (fun x => Kept packTouch s x.state ∧ x.data = []) r) (hx : finish s r = .next t) : PackStep s t := by
  obtain ⟨x, hok, rfl⟩ | ⟨e, -, rfl⟩ := (finish_next_iff s t r).1 hx
  · obtain ⟨hkept, hdata⟩ := hr x hok
    refine ⟨hkept.untouched.answered _ _ _, hkept.canonical, ?_⟩
    rw [hdata]
    rfl
  · exact ⟨(Untouched.refl _ s).answered _ _ _, id, rfl⟩

theorem packStep_line {l : Line} {s t : State} (hx : l.run s = .next t) : PackStep s t := by
  cases l with
  | put8 | put16 | put32 | putn =>
    exact packStep_finish ((appendBytes_kept rfl rfl rfl _).bind fun _ ht => .ok ⟨ht.1, rfl⟩) hx
  | putf w v =>
    exact packStep_finish (.after fun _ => (putField_kept rfl rfl rfl rfl _ v).bind fun _ ht => .ok ⟨ht.1, rfl⟩) hx
  | rsv8 => exact packStep_finish ((reserve_kept rfl rfl rfl rfl _ _).bind fun _ ht => .ok ⟨ht.1, rfl⟩) hx
  | patch => exact packStep_finish ((patchTop_kept rfl rfl rfl).bind fun _ ht => .ok ⟨ht.1, rfl⟩) hx

/-- A sequence of at least one line: the answer is that of the last line that was run. -/
theorem packStep_runLines {l : Line} {ls : List Line} {s t : State} (hx : runLines (l :: ls) s = .next t) :
    PackStep s t := by
  induction ls generalizing l s with
  | nil =>
    cases hl : l.run s with
    | next u =>
      have hu := packStep_line hl
      rw [runLines, hl] at hx
      obtain rfl : u = t := by simpa using hx
      exact hu
    | fault f => simp [runLines, hl] at hx
    | refused f => simp [runLines, hl] at hx
  | cons l' ls ih =>
    cases hl : l.run s with
    | next u =>
      have hu := packStep_line hl
      by_cases hok : u.status = 0#3
      · rw [runLines_cons_ok _ hl hok] at hx
        exact hu.trans (ih hx)
      · rw [runLines_cons_error _ hl hok] at hx
        obtain rfl : u = t := Host.Outcome.next.inj hx
        exact hu
    | fault f => simp [runLines, hl] at hx
    | refused f => simp [runLines, hl] at hx

/-- Every pseudo-instruction is a sequence of lines (R96), with the one row of R37 that they share. -/
theorem packStep_exec {i : Instr} (hi : i.format = .tlv) {s t : State} (hx : exec i s = .next t) :
    PackStep s t ∧ touch i = packTouch := by
  cases i with
  | packNetworkName | packServiceList | packSatDelivery | packCableDelivery | packLinkage | packShortEvent
  | packExtendedEvent | packTerrDelivery | packMlNetworkName | packMlComponent | packPrivateDataSpec
  | packFrequencyList | packDataBroadcast | packExtension | packExtensionT2 | packOpaque =>
    exact ⟨packStep_runLines hx, rfl⟩
  | _ => cases hi

/-! ### Every instruction -/

/-- Settles O45: the command's work, or the lines of a pseudo-instruction, touch no other column, and an answer none. -/
theorem commandsTouchOnlyTheirState : Obligations.CommandsTouchOnlyTheirState := by
  intro i s t hx
  by_cases hi : i.format = .tlv
  · obtain ⟨hstep, hrow⟩ := packStep_exec hi hx
    rw [hrow]
    exact hstep.untouched
  · obtain ⟨x, heffect, rfl⟩ | ⟨e, rfl⟩ := exec_next_cases hi hx
    · exact heffect.untouched.answered _ _ _
    · exact (Untouched.refl _ s).answered _ _ _

/-- The response in the statements' terms. -/
theorem response_eq (status : BitVec 3) (result : Word) (data : List Byte) :
    response status result data = BitVec.ofNat 8 status.toNat :: (bigEndian 4 result.toNat ++ data) := by
  have hstatus : status.setWidth 8 = BitVec.ofNat 8 status.toNat := BitVec.eq_of_toNat_eq (by simp)
  rw [response, be32_eq_bigEndian, hstatus]

/-- Settles O47: an error answers no data, and a success what its work has read. -/
theorem responseCarriesStatusAndResult : Obligations.ResponseCarriesStatusAndResult := by
  intro i s t hx
  by_cases hi : i.format = .tlv
  · obtain ⟨hstep, -⟩ := packStep_exec hi hx
    exact ⟨[], by rw [hstep.response, response_eq], fun h => absurd rfl h⟩
  · obtain ⟨x, heffect, rfl⟩ | ⟨e, rfl⟩ := exec_next_cases hi hx
    · refine ⟨x.data, by rw [complete_resp, response_eq]; rfl, fun hdata => ?_⟩
      obtain ⟨hlen, hlt, hread⟩ := heffect.data hdata
      have hresult : (toResult x.value).toNat = x.value := by
        rw [toResult_of_lt hlt]
        exact Nat.mod_eq_of_lt hlt
      exact ⟨rfl, hlen.trans hresult.symm, hread⟩
    · exact ⟨[], by rw [raiseErr_resp, response_eq]; rfl, fun h => absurd rfl h⟩

/-! ### The canonical form of the memories -/

/-- Both memories list rising addresses. -/
def Canonical (s : State) : Prop := Memory.wf s.buf ∧ Memory.wf s.obuf

theorem exec_canonical {i : Instr} {s t : State} (hs : Canonical s) (hx : exec i s = .next t) : Canonical t := by
  obtain ⟨hbuf, hobuf⟩ := hs
  by_cases hi : i.format = .tlv
  · obtain ⟨hstep, -⟩ := packStep_exec hi hx
    refine ⟨hstep.canonical hbuf, ?_⟩
    rw [(hstep.untouched.obuf rfl).1]
    exact hobuf
  · obtain ⟨x, heffect, rfl⟩ | ⟨e, rfl⟩ := exec_next_cases hi hx
    · exact ⟨heffect.bufCanonical hbuf, heffect.obufCanonical hobuf⟩
    · exact ⟨hbuf, hobuf⟩

theorem execCrcAppend_canonical {s t : State} (hs : Canonical s) (hx : execCrcAppend s = .next t) : Canonical t := by
  unfold execCrcAppend at hx
  split at hx
  next u hu =>
    have hu' : Canonical u := exec_canonical (i := .crcCalc 0#16 s.wp) hs hu
    split at hx
    next => exact exec_canonical (i := .asmPut32 u.result) hu' hx
    next =>
      obtain rfl : u = t := Host.Outcome.next.inj hx
      exact hu'
  next o hne => exact absurd hx (hne t)

/-- Settles O54: each item of the port keeps the form, and after a reset both memories are empty. -/
theorem memoriesStayCanonical : Obligations.MemoriesStayCanonical := by
  intro s t hbuf hobuf hstep
  cases hport : s.port with
  | nil =>
    rw [step_of_port_nil hport] at hstep
    obtain rfl : s = t := Host.Outcome.next.inj hstep
    exact ⟨hbuf, hobuf⟩
  | cons item rest =>
    have hs : Canonical { s with port := rest } := ⟨hbuf, hobuf⟩
    rw [step_of_port_cons hport] at hstep
    cases item with
    | frame f =>
      change serveFrame f _ = _ at hstep
      cases hf : decodeFrame f with
      | ok i =>
        rw [serveFrame_of_ok hf] at hstep
        exact exec_canonical hs hstep
      | error e =>
        rw [serveFrame_of_error hf] at hstep
        obtain rfl := Host.Outcome.next.inj hstep
        exact hs
    | listing i => exact exec_canonical hs hstep
    | crcAppend => exact execCrcAppend_canonical hs hstep
    | reset =>
      obtain rfl := Host.Outcome.next.inj hstep
      exact ⟨.nil, .nil⟩

end Sys2Proof.Machine
end

section
/-! PROOFS. Encodings of frames and wire patterns (spec 30_encoding.md R70 to R82): the decoder reads back what the encoder
writes, and what it reads is exactly the encoding of what was read. -/

namespace Sys2Proof.Machine

-- Each proof is checked before the next one begins: many at once would wait on one another in threads.
set_option Elab.async false

/-! ### Fields and bytes -/

/-- A byte pair, taken apart again. -/
theorem be16_u16 (a b : Byte) : be16 (u16 a b) = [a, b] := by
  have hhigh : (u16 a b).extractLsb' 8 8 = a := BitVec.extractLsb'_append_eq_left
  have hlow : (u16 a b).extractLsb' 0 8 = b := BitVec.extractLsb'_append_eq_right
  rw [be16, hhigh, hlow]

theorem toNat_u16 (a b : Byte) : (u16 a b).toNat = a.toNat * 256 + b.toNat := toNat_append_eq_mul_add a b

theorem toNat_u32 (a b c d : Byte) :
    (u32 a b c d).toNat = ((a.toNat * 256 + b.toNat) * 256 + c.toNat) * 256 + d.toNat := by
  simp only [u32, toNat_append_eq_mul_add, Nat.reducePow]

/-- A part of a word that is a given byte. -/
theorem extractLsb'_eq_iff {m : Nat} (x : BitVec m) (lo k : Nat) (v : BitVec k) :
    x.extractLsb' lo k = v ↔ x.toNat / 2 ^ lo % 2 ^ k = v.toNat := by
  rw [← BitVec.toNat_inj, extractLsb'_eq_ofNat_div, BitVec.toNat_ofNat]

/-- Four bytes, taken apart again. -/
theorem be32_u32 (a b c d : Byte) : be32 (u32 a b c d) = [a, b, c, d] := by
  have h (lo : Nat) (v : Byte) (hv : (u32 a b c d).toNat / 2 ^ lo % 2 ^ 8 = v.toNat) :
      (u32 a b c d).extractLsb' lo 8 = v := (extractLsb'_eq_iff _ lo 8 v).2 hv
  rw [be32, h 24 a (by rw [toNat_u32]; omega), h 16 b (by rw [toNat_u32]; omega), h 8 c (by rw [toNat_u32]; omega),
    h 0 d (by rw [toNat_u32]; omega)]

/-! ### Frames that decode, by the shape of their operands (R70) -/

/-- What the decoder makes of the bytes behind an opcode: it reads the instruction whose encoding they are, or they have
the wrong length. -/
def ReadsBack (op : Byte) (r : List Byte) : Prop :=
  (frameLengthOk op r = false ∧ decodeFrame (op :: r) = .error .badFrame) ∨
    (frameLengthOk op r = true ∧ ∃ i : Instr, decodeFrame (op :: r) = .ok i ∧ i.format = .cmd ∧ encode i = op :: r)

/-! The commands without a `bytes` operand have 0, 1, 2, 4, 5 or 6 operand bytes (R73). -/

/-- No operand bytes. -/
def operands0 (f : Instr) : List Byte → Except DecodeErr Instr
  | [] => .ok (f)
  | _ => .error .badFrame

/-- One operand byte. -/
def operands1 (f : Byte → Instr) : List Byte → Except DecodeErr Instr
  | [a] => .ok (f a)
  | _ => .error .badFrame

/-- Two operand bytes. -/
def operands2 (f : Byte → Byte → Instr) : List Byte → Except DecodeErr Instr
  | [a, b] => .ok (f a b)
  | _ => .error .badFrame

/-- Four operand bytes. -/
def operands4 (f : Byte → Byte → Byte → Byte → Instr) : List Byte → Except DecodeErr Instr
  | [a, b, c, d] => .ok (f a b c d)
  | _ => .error .badFrame

/-- Five operand bytes. -/
def operands5 (f : Byte → Byte → Byte → Byte → Byte → Instr) : List Byte → Except DecodeErr Instr
  | [a, b, c, d, e] => .ok (f a b c d e)
  | _ => .error .badFrame

/-- Six operand bytes. -/
def operands6 (f : Byte → Byte → Byte → Byte → Byte → Byte → Instr) : List Byte → Except DecodeErr Instr
  | [a, b, c, d, e, g] => .ok (f a b c d e g)
  | _ => .error .badFrame

section
variable {op : Byte}

/-- A command of `k` operand bytes and no `bytes` operand. -/
theorem readsBack_of_length {k : Nat} (hop : operandBytes op.toNat = some k) (hbytes : hasBytes op.toNat = false)
    {r : List Byte}
    (hd : (r.length = k ∧ ∃ i, decodeFrame (op :: r) = .ok i ∧ i.format = .cmd ∧ encode i = op :: r) ∨
      (r.length ≠ k ∧ decodeFrame (op :: r) = .error .badFrame)) : ReadsBack op r := by
  have hlen : frameLengthOk op r = (r.length == k) := by
    simp only [frameLengthOk, hop, hbytes, Bool.false_eq_true, if_false]
  rcases hd with ⟨h, hgood⟩ | ⟨h, hbad⟩
  · exact .inr ⟨by rw [hlen, h, beq_self_eq_true], hgood⟩
  · exact .inl ⟨by rw [hlen, beq_eq_false_iff_ne.2 h], hbad⟩

theorem readsBack_operands0 {f : Instr} (hop : operandBytes op.toNat = some 0)
    (hbytes : hasBytes op.toNat = false) (hd : ∀ r, decodeFrame (op :: r) = operands0 f r)
    (henc : f.format = .cmd ∧ encode f = op :: []) (r : List Byte) : ReadsBack op r := by
  refine readsBack_of_length hop hbytes ?_
  rw [hd]
  match r with
  | [] => exact .inl ⟨rfl, _, rfl, henc⟩
  | _ :: _ => exact .inr ⟨by simp, rfl⟩

theorem readsBack_operands1 {f : Byte → Instr} (hop : operandBytes op.toNat = some 1)
    (hbytes : hasBytes op.toNat = false) (hd : ∀ r, decodeFrame (op :: r) = operands1 f r)
    (henc : ∀ a, (f a).format = .cmd ∧ encode (f a) = op :: [a]) (r : List Byte) : ReadsBack op r := by
  refine readsBack_of_length hop hbytes ?_
  rw [hd]
  match r with
  | [a] => exact .inl ⟨rfl, _, rfl, henc a⟩
  | [] | _ :: _ :: _ => exact .inr ⟨by simp, rfl⟩

theorem readsBack_operands2 {f : Byte → Byte → Instr} (hop : operandBytes op.toNat = some 2)
    (hbytes : hasBytes op.toNat = false) (hd : ∀ r, decodeFrame (op :: r) = operands2 f r)
    (henc : ∀ a b, (f a b).format = .cmd ∧ encode (f a b) = op :: [a, b]) (r : List Byte) : ReadsBack op r := by
  refine readsBack_of_length hop hbytes ?_
  rw [hd]
  match r with
  | [a, b] => exact .inl ⟨rfl, _, rfl, henc a b⟩
  | [] | [_] | _ :: _ :: _ :: _ => exact .inr ⟨by simp, rfl⟩

theorem readsBack_operands4 {f : Byte → Byte → Byte → Byte → Instr} (hop : operandBytes op.toNat = some 4)
    (hbytes : hasBytes op.toNat = false) (hd : ∀ r, decodeFrame (op :: r) = operands4 f r)
    (henc : ∀ a b c d, (f a b c d).format = .cmd ∧ encode (f a b c d) = op :: [a, b, c, d])
    (r : List Byte) : ReadsBack op r := by
  refine readsBack_of_length hop hbytes ?_
  rw [hd]
  match r with
  | [a, b, c, d] => exact .inl ⟨rfl, _, rfl, henc a b c d⟩
  | [] | [_] | [_, _] | [_, _, _] | _ :: _ :: _ :: _ :: _ :: _ => exact .inr ⟨by simp, rfl⟩

theorem readsBack_operands5 {f : Byte → Byte → Byte → Byte → Byte → Instr} (hop : operandBytes op.toNat = some 5)
    (hbytes : hasBytes op.toNat = false) (hd : ∀ r, decodeFrame (op :: r) = operands5 f r)
    (henc : ∀ a b c d e, (f a b c d e).format = .cmd ∧ encode (f a b c d e) = op :: [a, b, c, d, e])
    (r : List Byte) : ReadsBack op r := by
  refine readsBack_of_length hop hbytes ?_
  rw [hd]
  match r with
  | [a, b, c, d, e] => exact .inl ⟨rfl, _, rfl, henc a b c d e⟩
  | [] | [_] | [_, _] | [_, _, _] | [_, _, _, _] | _ :: _ :: _ :: _ :: _ :: _ :: _ => exact .inr ⟨by simp, rfl⟩

theorem readsBack_operands6 {f : Byte → Byte → Byte → Byte → Byte → Byte → Instr} (hop : operandBytes op.toNat = some 6)
    (hbytes : hasBytes op.toNat = false) (hd : ∀ r, decodeFrame (op :: r) = operands6 f r)
    (henc : ∀ a b c d e g, (f a b c d e g).format = .cmd ∧ encode (f a b c d e g) = op :: [a, b, c, d, e, g])
    (r : List Byte) : ReadsBack op r := by
  refine readsBack_of_length hop hbytes ?_
  rw [hd]
  match r with
  | [a, b, c, d, e, g] => exact .inl ⟨rfl, _, rfl, henc a b c d e g⟩
  | [] | [_] | [_, _] | [_, _, _] | [_, _, _, _] | [_, _, _, _, _] | _ :: _ :: _ :: _ :: _ :: _ :: _ :: _ =>
    exact .inr ⟨by simp, rfl⟩

/-- A count and exactly the bytes that it counts. -/
def countOk : List Byte → Bool
  | a :: b :: p => p.length == (u16 a b).toNat
  | _ => false

/-- A `bytes` operand is read where its count is right, and it is then its own encoding (R70). -/
theorem withBytes_cases (r : List Byte) (f : List Byte → Instr) :
    (countOk r = true ∧ ∃ p, encodeBytes p = r ∧ withBytes r f = .ok (f p)) ∨
      (countOk r = false ∧ withBytes r f = .error .badFrame) := by
  match r with
  | [] | [_] => exact .inr ⟨rfl, rfl⟩
  | a :: b :: p =>
    by_cases h : p.length = (u16 a b).toNat
    · refine .inl ⟨by rw [countOk, h, beq_self_eq_true], p, ?_, by rw [withBytes, bytesOperand, if_pos h]⟩
      rw [encodeBytes, h, BitVec.ofNat_toNat, BitVec.setWidth_eq, be16_u16]
      rfl
    · exact .inr ⟨by rw [countOk, beq_eq_false_iff_ne.2 h], by rw [withBytes, bytesOperand, if_neg h]⟩

/-- A command whose `bytes` operand is `r`, behind the bytes `pre` of its other operands. -/
theorem readsBack_withBytes {pre r : List Byte} {f : List Byte → Instr} (hlen : frameLengthOk op (pre ++ r) = countOk r)
    (hd : decodeFrame (op :: (pre ++ r)) = withBytes r f)
    (henc : ∀ p, (f p).format = .cmd ∧ encode (f p) = op :: (pre ++ encodeBytes p)) : ReadsBack op (pre ++ r) := by
  rw [ReadsBack, hlen, hd]
  rcases withBytes_cases r f with ⟨hcount, p, rfl, hp⟩ | ⟨hcount, hbad⟩
  · exact .inr ⟨hcount, f p, hp, henc p⟩
  · exact .inl ⟨hcount, hbad⟩

/-- The same behind one operand byte, the tag. -/
theorem readsBack_tagBytes {f : Byte → List Byte → Instr}
    (hlen : ∀ t r, frameLengthOk op (t :: r) = countOk r) (hnil : frameLengthOk op [] = false)
    (hd : ∀ t r, decodeFrame (op :: t :: r) = withBytes r (f t)) (hbad : decodeFrame [op] = .error .badFrame)
    (henc : ∀ t p, (f t p).format = .cmd ∧ encode (f t p) = op :: t :: encodeBytes p) (r : List Byte) :
    ReadsBack op r := by
  match r with
  | [] => exact .inl ⟨hnil, hbad⟩
  | t :: r => exact readsBack_withBytes (pre := [t]) (hlen t r) (hd t r) (henc t)

/-- ENT.ADDD: the `bytes` operand stands behind the handle and the tag (R73). -/
theorem readsBack_entAddd (r : List Byte) : ReadsBack 0x33#8 r := by
  match r with
  | [] | [_] | [_, _] => exact .inl ⟨rfl, rfl⟩
  | a :: b :: t :: r =>
    refine readsBack_withBytes (pre := [a, b, t]) (f := .entAddd (u16 a b) t) rfl rfl fun p => ⟨rfl, ?_⟩
    rw [encode, be16_u16]
    rfl

end

/-- Every opcode of the map reads its operands back (R70, R73). -/
theorem readsBack_of_mem {op : Byte} (hop : op ∈ opcodes) (r : List Byte) : ReadsBack op r := by
  simp only [opcodes, List.mem_cons, List.not_mem_nil, or_false] at hop
  rcases hop with rfl | rfl | rfl | rfl | rfl | rfl | rfl | rfl | rfl | rfl | rfl | rfl | rfl | rfl | rfl | rfl | rfl |
    rfl | rfl | rfl | rfl | rfl | rfl | rfl
  · exact readsBack_operands1 (f := .csrRd) rfl rfl (fun _ => rfl) (fun _ => ⟨rfl, rfl⟩) r
  · exact readsBack_operands4 (f := fun a b c d => .bufRd (u16 a b) (u16 c d)) rfl rfl (fun _ => rfl)
      (fun _ _ _ _ => ⟨rfl, by rw [encode, be16_u16, be16_u16]; rfl⟩) r
  · exact readsBack_operands4 (f := fun a b c d => .obufRd (u16 a b) (u16 c d)) rfl rfl (fun _ => rfl)
      (fun _ _ _ _ => ⟨rfl, by rw [encode, be16_u16, be16_u16]; rfl⟩) r
  · exact readsBack_operands2 (f := fun a b => .asmReset (u16 a b)) rfl rfl (fun _ => rfl)
      (fun _ _ => ⟨rfl, by rw [encode, be16_u16]⟩) r
  · exact readsBack_operands1 (f := .asmPut8) rfl rfl (fun _ => rfl) (fun _ => ⟨rfl, rfl⟩) r
  · exact readsBack_operands2 (f := fun a b => .asmPut16 (u16 a b)) rfl rfl (fun _ => rfl)
      (fun _ _ => ⟨rfl, by rw [encode, be16_u16]⟩) r
  · exact readsBack_operands4 (f := fun a b c d => .asmPut32 (u32 a b c d)) rfl rfl (fun _ => rfl)
      (fun _ _ _ _ => ⟨rfl, by rw [encode, be32_u32]⟩) r
  · exact readsBack_withBytes (pre := []) (f := .asmPutn) (by rcases r with _ | ⟨_, _ | _⟩ <;> rfl) rfl
      fun _ => ⟨rfl, rfl⟩
  · exact readsBack_operands5 (f := fun w a b c d => .asmPutf w (u32 a b c d)) rfl rfl (fun _ => rfl)
      (fun _ _ _ _ _ => ⟨rfl, by rw [encode, be32_u32]⟩) r
  · exact readsBack_operands0 (f := .asmRsv8) rfl rfl (fun _ => rfl) (⟨rfl, rfl⟩) r
  · exact readsBack_operands1 (f := .asmRsv12) rfl rfl (fun _ => rfl) (fun _ => ⟨rfl, rfl⟩) r
  · exact readsBack_operands0 (f := .asmPatch) rfl rfl (fun _ => rfl) (⟨rfl, rfl⟩) r
  · exact readsBack_tagBytes (f := .descSize) (fun _ _ => rfl) rfl (fun _ _ => rfl) rfl (fun _ _ => ⟨rfl, rfl⟩) r
  · exact readsBack_tagBytes (f := .descEnc) (fun _ _ => rfl) rfl (fun _ _ => rfl) rfl (fun _ _ => ⟨rfl, rfl⟩) r
  · exact readsBack_tagBytes (f := .descDec) (fun _ _ => rfl) rfl (fun _ _ => rfl) rfl (fun _ _ => ⟨rfl, rfl⟩) r
  · exact readsBack_operands6 (f := fun t a b v c d => .secInit t (u16 a b) v (u16 c d)) rfl rfl (fun _ => rfl)
      (fun _ _ _ _ _ _ => ⟨rfl, by rw [encode, be16_u16, be16_u16]; rfl⟩) r
  · exact readsBack_tagBytes (f := .secAddd) (fun _ _ => rfl) rfl (fun _ _ => rfl) rfl (fun _ _ => ⟨rfl, rfl⟩) r
  · exact readsBack_operands4 (f := fun a b c d => .secAdde (u16 a b) (u16 c d)) rfl rfl (fun _ => rfl)
      (fun _ _ _ _ => ⟨rfl, by rw [encode, be16_u16, be16_u16]; rfl⟩) r
  · exact readsBack_entAddd r
  · exact readsBack_operands0 (f := .secSize) rfl rfl (fun _ => rfl) (⟨rfl, rfl⟩) r
  · exact readsBack_operands2 (f := fun a b => .secEnc (u16 a b)) rfl rfl (fun _ => rfl)
      (fun _ _ => ⟨rfl, by rw [encode, be16_u16]⟩) r
  · exact readsBack_operands4 (f := fun a b c d => .crcCalc (u16 a b) (u16 c d)) rfl rfl (fun _ => rfl)
      (fun _ _ _ _ => ⟨rfl, by rw [encode, be16_u16, be16_u16]; rfl⟩) r
  · exact readsBack_operands0 (f := .pktSize) rfl rfl (fun _ => rfl) (⟨rfl, rfl⟩) r
  · exact readsBack_operands2 (f := fun a b => .pktEnc (u16 a b)) rfl rfl (fun _ => rfl)
      (fun _ _ => ⟨rfl, by rw [encode, be16_u16]⟩) r

/-- A byte that is no opcode (R74). -/
theorem decodeFrame_of_not_mem {op : Byte} (hop : op ∉ opcodes) (r : List Byte) :
    decodeFrame (op :: r) = .error .reservedOpcode := by
  have hne : ∀ o ∈ opcodes, op.toNat ≠ o.toNat := fun o ho h => hop (BitVec.eq_of_toNat_eq h ▸ ho)
  simp only [opcodes, List.forall_mem_cons, BitVec.reduceToNat] at hne
  unfold decodeFrame
  dsimp only
  split
  on_goal 25 => rfl
  all_goals omega

/-- What a step does with a frame on the port whose bytes do not decode. -/
theorem step_of_frame_error {s : State} {f : List Byte} {rest : List PortItem} {e : DecodeErr}
    (hport : s.port = .frame f :: rest) (hf : decodeFrame f = .error e) :
    step s = .next (raiseErr (.badCommand (frameReason e)) { s with port := rest }) :=
  (step_of_port_cons hport).trans (serveFrame_of_error hf _)

/-- Settles O56: the three ways in which a frame is no command, and the frames that are the encoding of one. -/
theorem framesAreToldApart : Obligations.FramesAreToldApart := by
  intro s rest
  refine ⟨fun hport => step_of_frame_error hport rfl, fun op r hport => ?_⟩
  split
  next hop => exact step_of_frame_error hport (decodeFrame_of_not_mem hop r)
  next hop =>
    rcases readsBack_of_mem (not_not.1 hop) r with ⟨hlen, hbad⟩ | ⟨hlen, i, hi, hformat, hencode⟩
    · rw [if_pos hlen]
      exact step_of_frame_error hport hbad
    · rw [if_neg (ne_false_of_eq_true hlen)]
      exact ⟨i, hformat, hencode, (step_of_port_cons hport).trans (serveFrame_of_ok hi _)⟩

/-! ### Wire patterns -/

theorem format_encode_of_decodeFrame {bs : List Byte} {i : Instr} (h : decodeFrame bs = .ok i) :
    i.format = .cmd ∧ encode i = bs := by
  cases bs with
  | nil => cases h
  | cons op r =>
    by_cases hop : op ∈ opcodes
    · rcases readsBack_of_mem hop r with ⟨-, hbad⟩ | ⟨-, j, hj, hformat, hencode⟩
      · rw [hbad] at h
        cases h
      · rw [hj] at h
        obtain rfl : j = i := Except.ok.inj h
        exact ⟨hformat, hencode⟩
    · rw [decodeFrame_of_not_mem hop] at h
      cases h

/-- A length word, read as flags and count and written again (R76). -/
theorem lengthWordBytes_of_bytes (a b : Byte) :
    lengthWordBytes (a.extractLsb' 4 4) (a.extractLsb' 0 4 ++ b : BitVec (4 + 8)) = [a, b] := by
  have hword : (a.extractLsb' 4 4 ++ (a.extractLsb' 0 4 ++ b : BitVec (4 + 8)) : BitVec (4 + 12)) = u16 a b := by
    apply BitVec.eq_of_toNat_eq
    rw [toNat_u16, toNat_append_eq_mul_add, toNat_append_eq_mul_add, extractLsb'_eq_ofNat_div,
      extractLsb'_eq_ofNat_div, BitVec.toNat_ofNat, BitVec.toNat_ofNat]
    omega
  rw [lengthWordBytes, hword, be16_u16]

/-- The 16 bits of a packet header whose fixed bits are right, read and written again (R81). -/
theorem tsWord_of_bytes {a : Byte} (htei : a.extractLsb' 7 1 = Config.tsTei) (hprio : a.extractLsb' 5 1 = Config.tsPrio)
    (b : Byte) :
    be16 (Config.tsTei ++ a.extractLsb' 6 1 ++ Config.tsPrio ++ (a.extractLsb' 0 5 ++ b : BitVec (5 + 8)) :
      BitVec (1 + 1 + 1 + 13)) = [a, b] := by
  have hbit7 := (extractLsb'_eq_iff a 7 1 Config.tsTei).1 htei
  have hbit5 := (extractLsb'_eq_iff a 5 1 Config.tsPrio).1 hprio
  have hword : (Config.tsTei ++ a.extractLsb' 6 1 ++ Config.tsPrio ++ (a.extractLsb' 0 5 ++ b : BitVec (5 + 8)) :
      BitVec (1 + 1 + 1 + 13)) = u16 a b := by
    apply BitVec.eq_of_toNat_eq
    simp only [toNat_u16, toNat_append_eq_mul_add, extractLsb'_eq_ofNat_div, BitVec.toNat_ofNat, Config.tsTei,
      Config.tsPrio] at hbit7 hbit5 ⊢
    omega
  rw [hword, be16_u16]

/-- The version byte of a section header whose fixed bits are right, read and written again (R77). -/
theorem versionByte_of_byte {v : Byte} (hrsv : v.extractLsb' 6 2 = Config.verRsv) (hcni : v.extractLsb' 0 1 = Config.cni) :
    (Config.verRsv ++ v.extractLsb' 1 5 ++ Config.cni : BitVec (2 + 5 + 1)) = v := by
  have hhigh := (extractLsb'_eq_iff v 6 2 Config.verRsv).1 hrsv
  have hlow := (extractLsb'_eq_iff v 0 1 Config.cni).1 hcni
  apply BitVec.eq_of_toNat_eq
  simp only [toNat_append_eq_mul_add, extractLsb'_eq_ofNat_div, BitVec.toNat_ofNat, Config.verRsv,
    Config.cni] at hhigh hlow ⊢
  omega

/-- Settles O59, format by format: a frame by its opcode, a pattern by its fixed bits. -/
theorem noBitOfAFrameOrPatternIsIgnored : Obligations.NoBitOfAFrameOrPatternIsIgnored := by
  intro f bs i hf h
  cases f with
  | tlv => exact absurd rfl hf
  | cmd => exact format_encode_of_decodeFrame h
  | wireDescriptor =>
    change decodeWireDescriptor bs = _ at h
    unfold decodeWireDescriptor at h
    split at h
    next => cases h; exact ⟨rfl, rfl⟩
    next => cases h
  | wireLengthWord =>
    change decodeWireLengthWord bs = _ at h
    unfold decodeWireLengthWord at h
    split at h
    next a b => cases h; exact ⟨rfl, lengthWordBytes_of_bytes a b⟩
    next => cases h
  | wireSectionHeader =>
    change decodeWireSectionHeader bs = _ at h
    unfold decodeWireSectionHeader at h
    split at h
    next t a b c d v n l =>
      split_ifs at h with hfixed
      obtain ⟨hflags, hrsv, hcni, rfl, rfl⟩ := hfixed
      cases h
      have hword := lengthWordBytes_of_bytes a b
      rw [hflags] at hword
      refine ⟨rfl, ?_⟩
      rw [encode, sectionHeaderBytes, hword, be16_u16, versionByte_of_byte hrsv hcni]
      rfl
    next => cases h
  | wireEntityHeader =>
    change decodeWireEntityHeader bs = _ at h
    unfold decodeWireEntityHeader at h
    split at h
    next => cases h; exact ⟨rfl, by rw [encode, entityHeaderBytes, be16_u16, be16_u16]; rfl⟩
    next => cases h
  | wireCrcTrailer =>
    change decodeWireCrcTrailer bs = _ at h
    unfold decodeWireCrcTrailer at h
    split at h
    next => cases h; exact ⟨rfl, by rw [encode, be32_u32]⟩
    next => cases h
  | wireTsHeader =>
    change decodeWireTsHeader bs = _ at h
    unfold decodeWireTsHeader at h
    split at h
    next t a b x =>
      split_ifs at h with hfixed
      obtain ⟨rfl, htei, hprio, rfl⟩ := hfixed
      cases h
      refine ⟨rfl, ?_⟩
      rw [encode, tsHeaderBytes, tsWord_of_bytes htei hprio]
      rfl
    next => cases h
  | wirePointerField =>
    change decodeWirePointerField bs = _ at h
    unfold decodeWirePointerField at h
    split at h
    next b =>
      split_ifs at h with hb
      cases h
      exact ⟨rfl, by rw [hb]; rfl⟩
    next => cases h

end Sys2Proof.Machine
end

section
/-! PROOFS. Packing and parsing typed values (spec 42_descriptor_kinds.md R132, R133, R150 to R166): the parser of each
kind reads the packed bytes of a well-formed value as that value. -/

namespace Sys2Proof.Machine

-- Each proof is checked before the next one begins: many at once would wait on one another in threads.
set_option Elab.async false

/-! ### Parts of a payload -/

theorem take16If_be16Opt {c : Bool} {o : Option Half} (h : o.isSome = c) (r : List Byte) :
    take16If c (be16Opt o ++ r) = some (o, r) := by
  cases o with
  | none =>
    obtain rfl : false = c := h
    rfl
  | some v =>
    obtain rfl : true = c := h
    change some (some (u16 _ _), r) = _
    rw [u16_extractLsb']

theorem takeN_append (t r : List Byte) : takeN t.length (t ++ r) = some (t, r) := by
  rw [takeN, if_pos (by simp), List.take_left, List.drop_left]

@[simp] theorem length_lenBytes (t : List Byte) : (lenBytes t).length = t.length + 1 := rfl

theorem parseText_lenBytes {t : List Byte} (ht : t.length ≤ 255) (r : List Byte) :
    parseText (lenBytes t ++ r) = some (t, r) := by
  have hbyte : (BitVec.ofNat 8 t.length).toNat = t.length := Nat.mod_eq_of_lt (by omega)
  change takeN (BitVec.ofNat 8 t.length).toNat (t ++ r) = _
  rw [hbyte, takeN_append]

theorem parseLastText_lenBytes {t : List Byte} (ht : t.length ≤ 255) : parseLastText (lenBytes t) = some t := by
  have htext := parseText_lenBytes ht []
  rw [List.append_nil] at htext
  rw [parseLastText, htext]
  rfl

/-- A run of 32-bit fields. -/
theorem words32_be32s (vs : List Word) : words32 (be32s vs) = some vs := by
  induction vs with
  | nil => rfl
  | cons v vs ih =>
    change (words32 (be32s vs)).map (u32 _ _ _ _ :: ·) = _
    rw [ih, u32_extractLsb']
    rfl

@[simp] theorem length_be32s (vs : List Word) : (be32s vs).length = 4 * vs.length := by
  induction vs with
  | nil => rfl
  | cons v vs ih =>
    change (be32 v ++ be32s vs).length = _
    rw [List.length_append, ih, List.length_cons, Nat.mul_succ, Nat.add_comm]
    rfl

/-! ### Records of a fixed length (R151 to R154, R161, R162) -/

theorem parseServiceList_serviceListBytes (es : List ServiceEntry) :
    parseServiceList (serviceListBytes es) = some es := by
  induction es with
  | nil => rfl
  | cons e es ih =>
    change (parseServiceList (serviceListBytes es)).map (ServiceEntry.mk (u16 _ _) e.serviceType :: ·) = _
    rw [ih, u16_extractLsb']
    rfl

/-- The 28 bits in front of the last 4 of a 32-bit field, read back (R152, R153). -/
theorem extractLsb'_u32_append (x : BitVec 28) (y : BitVec 4) :
    (u32 ((x ++ y : BitVec (28 + 4)).extractLsb' 24 8) ((x ++ y : BitVec (28 + 4)).extractLsb' 16 8)
      ((x ++ y : BitVec (28 + 4)).extractLsb' 8 8) ((x ++ y : BitVec (28 + 4)).extractLsb' 0 8)).extractLsb' 4 28 = x :=
  (congrArg (BitVec.extractLsb' 4 28) (u32_extractLsb' (x ++ y))).trans BitVec.extractLsb'_append_eq_left

theorem parseSatDelivery_satDeliveryBytes (v : SatDelivery) : parseSatDelivery (satDeliveryBytes v) = some v := by
  obtain ⟨frequency, orbitalPosition, west, pol, roll, system, type, rate, fec⟩ := v
  refine congrArg some ((SatDelivery.mk.injEq ..).mpr ⟨u32_extractLsb' _, u16_extractLsb' _, ?_, ?_, ?_, ?_, ?_,
    extractLsb'_u32_append rate fec, ?_⟩)
  all_goals
    simp only [field_eq_iff, toNat_append_eq_mul_add, extractLsb'_eq_ofNat_div, BitVec.toNat_ofNat]
    omega

theorem parseCableDelivery_cableDeliveryBytes (v : CableDelivery) :
    parseCableDelivery (cableDeliveryBytes v) = some v := by
  obtain ⟨frequency, outer, modulation, rate, fec⟩ := v
  refine congrArg some ((CableDelivery.mk.injEq ..).mpr ⟨u32_extractLsb' _, ?_, rfl, extractLsb'_u32_append rate fec, ?_⟩)
  all_goals
    simp only [field_eq_iff, toNat_append_eq_mul_add, extractLsb'_eq_ofNat_div, BitVec.toNat_ofNat]
    omega

theorem parseTerrDelivery_terrDeliveryBytes (v : TerrDelivery) : parseTerrDelivery (terrDeliveryBytes v) = some v := by
  obtain ⟨frequency, width, priority, slicing, mpe, constellation, hierarchy, hp, lp, guard, mode, other⟩ := v
  refine congrArg some ((TerrDelivery.mk.injEq ..).mpr ⟨u32_extractLsb' _, ?_, ?_, ?_, ?_, ?_, ?_, ?_, ?_, ?_, ?_, ?_⟩)
  all_goals
    simp only [field_eq_iff, toNat_append_eq_mul_add, BitVec.toNat_ofNat]
    omega

theorem parsePrivateDataSpec_be32 (v : Word) : parsePrivateDataSpec (be32 v) = some v :=
  congrArg some (u32_extractLsb' v)

theorem parseFrequencyList_frequencyListBytes (v : FrequencyList) :
    parseFrequencyList (frequencyListBytes v) = some v := by
  obtain ⟨coding, frequencies⟩ := v
  have hcoding : field (0b111111#6 ++ coding : BitVec (6 + 2)) 0 2 = coding := by
    rw [field_eq_iff, toNat_append_eq_mul_add]
    omega
  change (words32 (be32s frequencies)).map (FrequencyList.mk (field _ 0 2)) = _
  rw [words32_be32s, hcoding]
  rfl

/-! ### Linkage (R155, R156) -/

/-- An optional field in front of the rest of a parser. -/
theorem take16If_bind {β : Type} {c : Bool} {o : Option Half} (h : o.isSome = c) (r : List Byte)
    (f : Option Half × List Byte → Option β) : (take16If c (be16Opt o ++ r)).bind f = f (o, r) := by
  rw [take16If_be16Opt h]
  rfl

theorem parseHandOver_handOverBytes {v : HandOver} (hv : v.ok = true) (r : List Byte) :
    parseHandOver (handOverBytes v ++ r) = some (v, r) := by
  obtain ⟨type, origin, network, service⟩ := v
  simp only [HandOver.ok, Bool.and_eq_true, beq_iff_eq] at hv
  obtain ⟨hnetwork, hservice⟩ := hv
  have htype : field (type ++ 0b111#3 ++ origin : BitVec (4 + 3 + 1)) 4 4 = type := by
    rw [field_eq_iff, toNat_append_eq_mul_add, toNat_append_eq_mul_add]
    omega
  have horigin : field (type ++ 0b111#3 ++ origin : BitVec (4 + 3 + 1)) 0 1 = origin := by
    rw [field_eq_iff, toNat_append_eq_mul_add, toNat_append_eq_mul_add]
    omega
  change parseHandOver ((type ++ 0b111#3 ++ origin : BitVec (4 + 3 + 1)) ::
    ((be16Opt network ++ be16Opt service) ++ r)) = _
  rw [parseHandOver, htype, horigin, List.append_assoc, take16If_bind (by rw [hnetwork, Bool.decide_and]),
    take16If_bind (by rw [hservice, beq_eq_decide])]

theorem parseEvent_eventBytes (v : LinkEvent) (r : List Byte) : parseEvent (eventBytes v ++ r) = some (v, r) := by
  obtain ⟨target, listed, simulcast⟩ := v
  have hlisted : field (listed ++ simulcast ++ 0b111111#6 : BitVec (1 + 1 + 6)) 7 1 = listed := by
    rw [field_eq_iff, toNat_append_eq_mul_add, toNat_append_eq_mul_add]
    omega
  have hsimulcast : field (listed ++ simulcast ++ 0b111111#6 : BitVec (1 + 1 + 6)) 6 1 = simulcast := by
    rw [field_eq_iff, toNat_append_eq_mul_add, toNat_append_eq_mul_add]
    omega
  change some (LinkEvent.mk (u16 _ _) (field _ 7 1) (field _ 6 1), r) = _
  rw [u16_extractLsb', hlisted, hsimulcast]

/-- The flag byte of a target entry (R156). -/
abbrev targetFlags (v : LinkTarget) : Byte :=
  (v.targetListed ++ v.eventSimulcast ++ v.linkType ++ v.targetIdType ++ v.originalNetworkIdFlag ++ v.serviceIdFlag :
    BitVec (1 + 1 + 2 + 2 + 1 + 1))

theorem targetBytes_append (v : LinkTarget) (r : List Byte) :
    targetBytes v ++ r = v.targetEventId.extractLsb' 8 8 :: v.targetEventId.extractLsb' 0 8 :: targetFlags v ::
      (be16Opt v.userDefinedId ++ (be16Opt v.targetTransportStreamId ++ (be16Opt v.targetOriginalNetworkId ++
        (be16Opt v.targetServiceId ++ r)))) := by
  simp only [targetBytes, List.append_assoc]
  rfl

theorem parseTarget_targetBytes {v : LinkTarget} (hv : v.ok = true) (r : List Byte) :
    parseTarget (targetBytes v ++ r) = some (v, r) := by
  have hfield (lo w : Nat) (x : BitVec w) (h : (targetFlags v).toNat / 2 ^ lo % 2 ^ w = x.toNat) :
      field (targetFlags v) lo w = x := (field_eq_iff _ _ _ _).2 h
  simp only [targetFlags, toNat_append_eq_mul_add] at hfield
  simp only [LinkTarget.ok, Bool.and_eq_true, beq_iff_eq] at hv
  obtain ⟨⟨⟨huser, hstream⟩, hnetwork⟩, hservice⟩ := hv
  rw [targetBytes_append, parseTarget, u16_extractLsb', hfield 7 1 v.targetListed (by omega),
    hfield 6 1 v.eventSimulcast (by omega), hfield 4 2 v.linkType (by omega), hfield 2 2 v.targetIdType (by omega),
    hfield 1 1 v.originalNetworkIdFlag (by omega), hfield 0 1 v.serviceIdFlag (by omega),
    take16If_bind (by rw [huser, beq_eq_decide]), take16If_bind (by rw [hstream, beq_eq_decide]),
    take16If_bind (by rw [hnetwork, Bool.decide_and, decide_not, bne, beq_eq_decide, beq_eq_decide]),
    take16If_bind (by rw [hservice, Bool.decide_and, decide_not, bne, beq_eq_decide, beq_eq_decide])]

theorem parseTargetLoop_targetBytes {vs : List LinkTarget} (hvs : vs.all LinkTarget.ok = true) {k : Nat}
    (hk : vs.length ≤ k) : parseTargetLoop k (vs.flatMap targetBytes) = some vs := by
  induction vs generalizing k with
  | nil => cases k <;> rfl
  | cons v vs ih =>
    obtain ⟨hv, hvs⟩ : v.ok = true ∧ vs.all LinkTarget.ok = true := by simpa using hvs
    obtain ⟨k, rfl⟩ := Nat.exists_eq_succ_of_ne_zero (Nat.ne_zero_of_lt hk)
    have hparse := parseTarget_targetBytes hv (vs.flatMap targetBytes)
    rw [List.flatMap_cons]
    rw [targetBytes_append] at hparse ⊢
    rw [parseTargetLoop, hparse, Option.bind_some, ih hvs (Nat.le_of_succ_le_succ hk)]
    rfl

/-- Every entry of a list takes at least one byte. -/
theorem length_le_length_flatMap {α : Type} {f : α → List Byte} (hf : ∀ x, 1 ≤ (f x).length) (xs : List α) :
    xs.length ≤ (xs.flatMap f).length := by
  induction xs with
  | nil => exact Nat.le_refl 0
  | cons x xs ih =>
    have := hf x
    rw [List.flatMap_cons, List.length_append, List.length_cons]
    omega

theorem parseTargets_lenBytes {vs : List LinkTarget} (hvs : vs.all LinkTarget.ok = true)
    (hlen : (vs.flatMap targetBytes).length ≤ 255) (r : List Byte) :
    parseTargets (lenBytes (vs.flatMap targetBytes) ++ r) = some (vs, r) := by
  have hbyte : (BitVec.ofNat 8 (vs.flatMap targetBytes).length).toNat = (vs.flatMap targetBytes).length :=
    Nat.mod_eq_of_lt (by omega)
  have hcount : vs.length ≤ (vs.flatMap targetBytes).length :=
    length_le_length_flatMap (f := targetBytes) (fun _ => Nat.succ_pos _) vs
  change (takeN (BitVec.ofNat 8 (vs.flatMap targetBytes).length).toNat (vs.flatMap targetBytes ++ r)).bind _ = _
  rw [hbyte, takeN_append, Option.bind_some, parseTargetLoop_targetBytes hvs hcount]
  rfl

theorem parseTrailer_trailerBytes {v : Linkage} (hv : v.ok = true) (hlen : (trailerBytes v.trailer).length ≤ 255)
    (r : List Byte) : parseTrailer v.linkageType (trailerBytes v.trailer ++ r) = some (v.trailer, r) := by
  obtain ⟨stream, network, service, type, trailer, data⟩ := v
  cases trailer with
  | absent =>
    simp only [Linkage.ok, Bool.and_eq_true, Bool.not_eq_true', beq_eq_false_iff_ne, Bool.and_eq_false_iff,
      decide_eq_false_iff_not] at hv
    obtain ⟨⟨h8, hD⟩, hrange⟩ := hv
    rw [parseTrailer, if_neg h8, if_neg hD, if_neg (by tauto)]
    rfl
  | handOver w =>
    simp only [Linkage.ok, Bool.and_eq_true, beq_iff_eq] at hv
    obtain ⟨rfl, hw⟩ := hv
    rw [parseTrailer, if_pos rfl, trailerBytes, parseHandOver_handOverBytes hw]
    rfl
  | event w =>
    obtain rfl : type = 0x0D#8 := by simpa [Linkage.ok] using hv
    rw [parseTrailer, if_neg (show ¬0x0D#8 = 0x08#8 by decide), if_pos rfl, trailerBytes, parseEvent_eventBytes]
    rfl
  | targets vs =>
    simp only [Linkage.ok, Bool.and_eq_true, decide_eq_true_eq] at hv
    obtain ⟨⟨hlow, hhigh⟩, hvs⟩ := hv
    have h8 : type ≠ 0x08#8 := by rintro rfl; exact absurd hlow (by decide)
    have hD : type ≠ 0x0D#8 := by rintro rfl; exact absurd hlow (by decide)
    have hbytes : (vs.flatMap targetBytes).length ≤ 255 := Nat.le_of_succ_le hlen
    rw [parseTrailer, if_neg h8, if_neg hD, if_pos ⟨hlow, hhigh⟩, trailerBytes, parseTargets_lenBytes hvs hbytes]
    rfl

theorem parseLinkage_linkageBytes {v : Linkage} (hv : v.ok = true) (hlen : (linkageBytes v).length ≤ 255) :
    parseLinkage (linkageBytes v) = some v := by
  have htrailer : (trailerBytes v.trailer).length ≤ 255 := by
    simp only [linkageBytes, List.length_append] at hlen
    omega
  have hparse := parseTrailer_trailerBytes hv htrailer v.privateData
  have hbytes : linkageBytes v = be16 v.transportStreamId ++ (be16 v.originalNetworkId ++ (be16 v.serviceId ++
      v.linkageType :: (trailerBytes v.trailer ++ v.privateData))) := by simp [linkageBytes]
  rw [hbytes]
  change (parseTrailer v.linkageType _).map (fun x => Linkage.mk (u16 _ _) (u16 _ _) (u16 _ _) _ x.1 x.2) = _
  rw [hparse, u16_extractLsb', u16_extractLsb', u16_extractLsb']
  rfl

/-! ### Texts and lists of texts (R157 to R160, R163) -/

theorem parseText_bind {β : Type} {t : List Byte} (ht : t.length ≤ 255) (r : List Byte)
    (f : List Byte × List Byte → Option β) : (parseText (lenBytes t ++ r)).bind f = f (t, r) := by
  rw [parseText_lenBytes ht]
  rfl

theorem parseShortEvent_shortEventBytes {v : ShortEvent} (hlen : (shortEventBytes v).length ≤ 255) :
    parseShortEvent (shortEventBytes v) = some v := by
  obtain ⟨hname, htext⟩ : v.eventName.length ≤ 255 ∧ v.text.length ≤ 255 := by
    simp only [shortEventBytes, List.length_append, length_lenBytes] at hlen
    omega
  have hbytes : shortEventBytes v = langBytes v.lang ++ (lenBytes v.eventName ++ lenBytes v.text) := by
    simp [shortEventBytes]
  rw [hbytes]
  change (parseText (lenBytes v.eventName ++ lenBytes v.text)).bind _ = _
  rw [parseText_bind hname, parseLastText_lenBytes htext]
  rfl

theorem parseItemLoop_itemBytes {vs : List EventItem} (hlen : (vs.flatMap itemBytes).length ≤ 255) {k : Nat}
    (hk : vs.length ≤ k) : parseItemLoop k (vs.flatMap itemBytes) = some vs := by
  induction vs generalizing k with
  | nil => cases k <;> rfl
  | cons v vs ih =>
    rw [List.flatMap_cons, List.length_append, itemBytes, List.length_append, length_lenBytes, length_lenBytes] at hlen
    obtain ⟨k, rfl⟩ := Nat.exists_eq_succ_of_ne_zero (Nat.ne_zero_of_lt hk)
    have hbytes : (v :: vs).flatMap itemBytes =
        lenBytes v.description ++ (lenBytes v.item ++ vs.flatMap itemBytes) := by simp [itemBytes]
    rw [hbytes]
    change (parseText (lenBytes v.description ++ _)).bind _ = _
    rw [parseText_bind (by omega), parseText_bind (by omega), ih (by omega) (Nat.le_of_succ_le_succ hk)]
    rfl

theorem parseExtendedEvent_extendedEventBytes {v : ExtendedEvent} (hlen : (extendedEventBytes v).length ≤ 255) :
    parseExtendedEvent (extendedEventBytes v) = some v := by
  obtain ⟨number, last, lang, items, text⟩ := v
  obtain ⟨hitems, htext⟩ : (items.flatMap itemBytes).length ≤ 255 ∧ text.length ≤ 255 := by
    simp only [extendedEventBytes, List.length_append, length_lenBytes] at hlen
    omega
  have hnumber : field (number ++ last : BitVec (4 + 4)) 4 4 = number := by
    rw [field_eq_iff, toNat_append_eq_mul_add]
    omega
  have hlast : field (number ++ last : BitVec (4 + 4)) 0 4 = last := by
    rw [field_eq_iff, toNat_append_eq_mul_add]
    omega
  have hcount : items.length ≤ (items.flatMap itemBytes).length :=
    length_le_length_flatMap (f := itemBytes) (fun _ => Nat.succ_pos _) items
  have hbytes : extendedEventBytes ⟨number, last, lang, items, text⟩ = (number ++ last : BitVec (4 + 4)) ::
      (langBytes lang ++ (lenBytes (items.flatMap itemBytes) ++ lenBytes text)) := by simp [extendedEventBytes]
  rw [hbytes]
  change (parseText (lenBytes (items.flatMap itemBytes) ++ lenBytes text)).bind _ = _
  rw [parseText_bind hitems, parseItemLoop_itemBytes hitems hcount, Option.bind_some, parseLastText_lenBytes htext,
    hnumber, hlast]
  rfl

theorem parseBlockLoop_blockBytes {bs : List LangBlock} (hlen : (bs.flatMap blockBytes).length ≤ 255) {k : Nat}
    (hk : bs.length ≤ k) : parseBlockLoop k (bs.flatMap blockBytes) = some bs := by
  induction bs generalizing k with
  | nil => cases k <;> rfl
  | cons b bs ih =>
    rw [List.flatMap_cons, List.length_append, blockBytes, List.length_append, length_lenBytes] at hlen
    obtain ⟨k, rfl⟩ := Nat.exists_eq_succ_of_ne_zero (Nat.ne_zero_of_lt hk)
    have hbytes : (b :: bs).flatMap blockBytes = langBytes b.lang ++ (lenBytes b.name ++ bs.flatMap blockBytes) := by
      simp [blockBytes]
    rw [hbytes]
    change (parseText (lenBytes b.name ++ _)).bind _ = _
    rw [parseText_bind (by omega), ih (by omega) (Nat.le_of_succ_le_succ hk)]
    rfl

theorem parseMlNetworkName_mlNetworkNameBytes {bs : List LangBlock} (hlen : (mlNetworkNameBytes bs).length ≤ 255) :
    parseMlNetworkName (mlNetworkNameBytes bs) = some bs :=
  parseBlockLoop_blockBytes hlen (length_le_length_flatMap (f := blockBytes) (fun _ => Nat.succ_pos _) bs)

theorem parseMlComponent_mlComponentBytes {v : MlComponent} (hlen : (mlComponentBytes v).length ≤ 255) :
    parseMlComponent (mlComponentBytes v) = some v := by
  have hblocks : (v.blocks.flatMap blockBytes).length ≤ 255 := Nat.le_of_succ_le hlen
  rw [mlComponentBytes, parseMlComponent, parseBlockLoop_blockBytes hblocks
    (length_le_length_flatMap (f := blockBytes) (fun _ => Nat.succ_pos _) _)]
  rfl

theorem parseDataBroadcast_dataBroadcastBytes {v : DataBroadcast} (hlen : (dataBroadcastBytes v).length ≤ 255) :
    parseDataBroadcast (dataBroadcastBytes v) = some v := by
  obtain ⟨hselector, htext⟩ : v.selector.length ≤ 255 ∧ v.text.length ≤ 255 := by
    simp only [dataBroadcastBytes, List.length_append, length_lenBytes] at hlen
    omega
  have hbytes : dataBroadcastBytes v = be16 v.dataBroadcastId ++ v.componentTag ::
      (lenBytes v.selector ++ (langBytes v.lang ++ lenBytes v.text)) := by simp [dataBroadcastBytes]
  rw [hbytes]
  change (parseText (lenBytes v.selector ++ _)).bind _ = _
  rw [parseText_bind hselector]
  change (parseLastText (lenBytes v.text)).map (DataBroadcast.mk (u16 _ _) _ _ _) = _
  rw [parseLastText_lenBytes htext, u16_extractLsb']
  rfl

/-! ### The T2 delivery system (R164, R165) -/

theorem parseSubcells_subcellBytes (cs : List T2Subcell) : parseSubcells (cs.flatMap subcellBytes) = some cs := by
  induction cs with
  | nil => rfl
  | cons c cs ih =>
    change (parseSubcells (cs.flatMap subcellBytes)).map (T2Subcell.mk c.cellIdExtension (u32 _ _ _ _) :: ·) = _
    rw [ih, u32_extractLsb']
    rfl

/-- The frequencies of one cell: counted with tfs_flag = 1, exactly one else. -/
abbrev frequencyBytes (tfs : BitVec 1) (fs : List Word) : List Byte :=
  if tfs = 1#1 then lenBytes (be32s fs) else be32s fs

theorem parseCellFrequencies_frequencyBytes {tfs : BitVec 1} {fs : List Word} (hone : tfs ≠ 1#1 → fs.length = 1)
    (hlen : (frequencyBytes tfs fs).length ≤ 255) (r : List Byte) :
    parseCellFrequencies (decide (tfs = 1#1)) (frequencyBytes tfs fs ++ r) = some (fs, r) := by
  unfold parseCellFrequencies frequencyBytes at *
  by_cases htfs : tfs = 1#1
  · rw [if_pos htfs] at hlen ⊢
    rw [if_pos (by simpa using htfs), parseText_bind (Nat.le_of_succ_le hlen), words32_be32s]
    rfl
  · have hfour : (be32s fs).length = 4 := by rw [length_be32s, hone htfs]
    have htake := takeN_append (be32s fs) r
    rw [hfour] at htake
    rw [if_neg htfs, if_neg (by simpa using htfs), htake, Option.bind_some, words32_be32s]
    rfl

theorem parseCellLoop_cellBytes {tfs : BitVec 1} {cs : List T2Cell}
    (hone : tfs ≠ 1#1 → ∀ c ∈ cs, c.frequencies.length = 1) (hlen : (cs.flatMap (cellBytes tfs)).length ≤ 255) {k : Nat}
    (hk : cs.length ≤ k) : parseCellLoop (decide (tfs = 1#1)) k (cs.flatMap (cellBytes tfs)) = some cs := by
  induction cs generalizing k with
  | nil => cases k <;> rfl
  | cons c cs ih =>
    obtain ⟨k, rfl⟩ := Nat.exists_eq_succ_of_ne_zero (Nat.ne_zero_of_lt hk)
    have hbytes : (c :: cs).flatMap (cellBytes tfs) = be16 c.cellId ++ (frequencyBytes tfs c.frequencies ++
        (lenBytes (c.subcells.flatMap subcellBytes) ++ cs.flatMap (cellBytes tfs))) := by simp [cellBytes]
    rw [hbytes, List.length_append, List.length_append, List.length_append, length_lenBytes] at hlen
    have hfrequencies := parseCellFrequencies_frequencyBytes (fun h => hone h c List.mem_cons_self) (by omega)
      (lenBytes (c.subcells.flatMap subcellBytes) ++ cs.flatMap (cellBytes tfs))
    have hrest := ih (fun h d hd => hone h d (List.mem_cons_of_mem _ hd)) (by omega) (Nat.le_of_succ_le_succ hk)
    rw [hbytes]
    change (parseCellFrequencies _ (frequencyBytes tfs c.frequencies ++ _)).bind _ = _
    rw [hfrequencies, Option.bind_some, parseText_bind (by omega), parseSubcells_subcellBytes, Option.bind_some, hrest,
      u16_extractLsb']
    rfl

/-- The flag in the last bit of a byte. -/
theorem getLsbD_zero_append {n : Nat} (x : BitVec n) (b : BitVec 1) :
    (x ++ b : BitVec (n + 1)).getLsbD 0 = decide (b = 1#1) := by
  rw [BitVec.getLsbD_append, if_pos Nat.one_pos]
  rcases BitVec.eq_zero_or_eq_one b with rfl | rfl <;> rfl

theorem T2Long.one_frequency {v : T2Long} (hv : v.ok = true) (htfs : v.tfsFlag ≠ 1#1) :
    ∀ c ∈ v.cells, c.frequencies.length = 1 := by
  simpa [T2Long.ok, htfs] using hv

theorem parseT2_t2BodyBytes {v : T2Delivery} (hv : v.ok = true) (hlen : (t2BodyBytes v).length ≤ 255) :
    parseT2 (0x04#8 :: t2BodyBytes v) = some v := by
  obtain ⟨plp, system, long⟩ := v
  cases long with
  | none =>
    change some (T2Delivery.mk plp (u16 _ _) none) = _
    rw [u16_extractLsb']
  | some l =>
    have hcells : (l.cells.flatMap (cellBytes l.tfsFlag)).length ≤ 255 := by
      simp only [t2BodyBytes, t2LongBytes, List.length_append] at hlen
      omega
    have hcount : l.cells.length ≤ (l.cells.flatMap (cellBytes l.tfsFlag)).length :=
      length_le_length_flatMap (f := cellBytes l.tfsFlag) (fun _ => Nat.succ_pos _) l.cells
    change (parseCellLoop (BitVec.getLsbD _ 0) (l.cells.flatMap (cellBytes l.tfsFlag)).length
      (l.cells.flatMap (cellBytes l.tfsFlag))).map _ = _
    rw [getLsbD_zero_append, parseCellLoop_cellBytes (T2Long.one_frequency hv) hcells hcount]
    refine congrArg some ((T2Delivery.mk.injEq ..).mpr ⟨rfl, u16_extractLsb' _, congrArg some
      ((T2Long.mk.injEq ..).mpr ⟨?_, ?_, ?_, ?_, ?_, ?_, rfl⟩)⟩)
    all_goals
      simp only [field_eq_iff, toNat_append_eq_mul_add, BitVec.toNat_ofNat]
      omega

/-! ### Every kind (R132, R133) -/

/-- R133 (a): the packed payload of a well-formed value is read as that value. -/
theorem parseKind_packed {i : Instr} {tag : Byte} {p : List Byte} (hi : i.wellFormed = true)
    (hpacked : packed i = some (tag, p)) : parseKind tag p = some i ∧ p.length ≤ 255 ∧ knownTag tag = true := by
  cases i
  case packNetworkName text =>
    obtain ⟨rfl, rfl⟩ := Prod.mk.inj (Option.some.inj hpacked)
    exact ⟨rfl, of_decide_eq_true hi, rfl⟩
  case packServiceList es =>
    obtain ⟨rfl, rfl⟩ := Prod.mk.inj (Option.some.inj hpacked)
    exact ⟨congrArg (Option.map _) (parseServiceList_serviceListBytes es), of_decide_eq_true hi, rfl⟩
  case packSatDelivery v =>
    obtain ⟨rfl, rfl⟩ := Prod.mk.inj (Option.some.inj hpacked)
    exact ⟨congrArg (Option.map _) (parseSatDelivery_satDeliveryBytes v), show 11 ≤ 255 by decide, rfl⟩
  case packCableDelivery v =>
    obtain ⟨rfl, rfl⟩ := Prod.mk.inj (Option.some.inj hpacked)
    exact ⟨congrArg (Option.map _) (parseCableDelivery_cableDeliveryBytes v), show 11 ≤ 255 by decide, rfl⟩
  case packLinkage v =>
    obtain ⟨rfl, rfl⟩ := Prod.mk.inj (Option.some.inj hpacked)
    obtain ⟨hv, hlen⟩ := Bool.and_eq_true_iff.1 hi
    have hlen : (linkageBytes v).length ≤ 255 := of_decide_eq_true hlen
    exact ⟨congrArg (Option.map _) (parseLinkage_linkageBytes hv hlen), hlen, rfl⟩
  case packShortEvent v =>
    obtain ⟨rfl, rfl⟩ := Prod.mk.inj (Option.some.inj hpacked)
    have hlen : (shortEventBytes v).length ≤ 255 := of_decide_eq_true hi
    exact ⟨congrArg (Option.map _) (parseShortEvent_shortEventBytes hlen), hlen, rfl⟩
  case packExtendedEvent v =>
    obtain ⟨rfl, rfl⟩ := Prod.mk.inj (Option.some.inj hpacked)
    have hlen : (extendedEventBytes v).length ≤ 255 := of_decide_eq_true hi
    exact ⟨congrArg (Option.map _) (parseExtendedEvent_extendedEventBytes hlen), hlen, rfl⟩
  case packTerrDelivery v =>
    obtain ⟨rfl, rfl⟩ := Prod.mk.inj (Option.some.inj hpacked)
    exact ⟨congrArg (Option.map _) (parseTerrDelivery_terrDeliveryBytes v), show 11 ≤ 255 by decide, rfl⟩
  case packMlNetworkName bs =>
    obtain ⟨rfl, rfl⟩ := Prod.mk.inj (Option.some.inj hpacked)
    have hlen : (mlNetworkNameBytes bs).length ≤ 255 := of_decide_eq_true hi
    exact ⟨congrArg (Option.map _) (parseMlNetworkName_mlNetworkNameBytes hlen), hlen, rfl⟩
  case packMlComponent v =>
    obtain ⟨rfl, rfl⟩ := Prod.mk.inj (Option.some.inj hpacked)
    have hlen : (mlComponentBytes v).length ≤ 255 := of_decide_eq_true hi
    exact ⟨congrArg (Option.map _) (parseMlComponent_mlComponentBytes hlen), hlen, rfl⟩
  case packPrivateDataSpec v =>
    obtain ⟨rfl, rfl⟩ := Prod.mk.inj (Option.some.inj hpacked)
    exact ⟨congrArg (Option.map _) (parsePrivateDataSpec_be32 v), show 4 ≤ 255 by decide, rfl⟩
  case packFrequencyList v =>
    obtain ⟨rfl, rfl⟩ := Prod.mk.inj (Option.some.inj hpacked)
    exact ⟨congrArg (Option.map _) (parseFrequencyList_frequencyListBytes v), of_decide_eq_true hi, rfl⟩
  case packDataBroadcast v =>
    obtain ⟨rfl, rfl⟩ := Prod.mk.inj (Option.some.inj hpacked)
    have hlen : (dataBroadcastBytes v).length ≤ 255 := of_decide_eq_true hi
    exact ⟨congrArg (Option.map _) (parseDataBroadcast_dataBroadcastBytes hlen), hlen, rfl⟩
  case packExtension x body =>
    obtain ⟨rfl, rfl⟩ := Prod.mk.inj (Option.some.inj hpacked)
    obtain ⟨hx, hlen⟩ := Bool.and_eq_true_iff.1 hi
    exact ⟨if_neg (bne_iff_ne.1 hx), of_decide_eq_true hlen, rfl⟩
  case packExtensionT2 v =>
    obtain ⟨rfl, rfl⟩ := Prod.mk.inj (Option.some.inj hpacked)
    obtain ⟨hv, hlen⟩ := Bool.and_eq_true_iff.1 hi
    have hlen : (0x04#8 :: t2BodyBytes v).length ≤ 255 := of_decide_eq_true hlen
    have hparse := parseT2_t2BodyBytes hv (Nat.le_of_succ_le hlen)
    refine ⟨?_, hlen, rfl⟩
    change (if (0x04#8 : Byte) = 0x04#8 then (parseT2 _).map Instr.packExtensionT2
      else some (.packExtension 0x04#8 (t2BodyBytes v))) = _
    rw [if_pos rfl, hparse]
    rfl
  case packOpaque t raw =>
    obtain ⟨rfl, rfl⟩ := Prod.mk.inj (Option.some.inj hpacked)
    obtain ⟨htag, hlen⟩ := Bool.and_eq_true_iff.1 hi
    have htag : 0x80 ≤ t.toNat := of_decide_eq_true htag
    exact ⟨parseKind_of_opaque htag raw, of_decide_eq_true hlen, by simp [knownTag, htag]⟩
  all_goals cases hpacked

/-- `create` admits it. -/
theorem admitError_packed {i : Instr} {tag : Byte} {p : List Byte} (hi : i.wellFormed = true)
    (hpacked : packed i = some (tag, p)) : admitError tag p = none := by
  obtain ⟨hparse, hlen, htag⟩ := parseKind_packed hi hpacked
  rw [admitError, if_neg (by simp [htag]), if_neg (by omega), hparse]
  rfl

theorem encode_of_packed {i : Instr} {x : Byte × List Byte} (hpacked : packed i = some x) : encode i = encodeTlv x := by
  cases i
  all_goals cases hpacked
  all_goals rfl

/-- Settles O58: the typed value's payload is read as that value, so the check of its kind admits it. -/
theorem packedValuesPassTheirCheck : Obligations.PackedValuesPassTheirCheck := by
  intro i tag p s hi hpacked
  have hadmit := admitError_packed hi hpacked
  rw [encode_of_packed hpacked]
  exact ⟨exec_descDec_encodeTlv hadmit s, (create_ok_iff tag p).2 hadmit, (parseKind_packed hi hpacked).1⟩

/-- Settles O13: the structure check of a registered kind is its parser's domain. -/
theorem wfHoldsWhereParseIsDefined : Obligations.WfHoldsWhereParseIsDefined := by
  intro tag k p hlookup hlen
  rcases lookup_cases tag with ⟨-, c, hc, hparse⟩ | ⟨-, hunknown⟩
  · obtain rfl : c = k := Except.ok.inj (hc.symm.trans hlookup)
    rw [← hparse, Option.isSome_iff_exists]
  · rw [hunknown] at hlookup
    cases hlookup

/-! ### Decoding what has been encoded -/

theorem decodeTlv_encodeTlv {tag : Byte} {p : List Byte} {i : Instr} (htag : knownTag tag = true)
    (hlen : p.length ≤ 255) (hparse : parseKind tag p = some i) : decodeTlv (encodeTlv (tag, p)) = .ok i := by
  have hbyte : (BitVec.ofNat 8 p.length).toNat = p.length := Nat.mod_eq_of_lt (by omega)
  have hknown : ¬(tag.toNat < 128 ∧ tag ∉ registeredTags) := by
    simp only [knownTag, Bool.or_eq_true, List.contains_iff_mem, decide_eq_true_eq] at htag
    rintro ⟨hlow, hreg⟩
    exact htag.elim hreg (by omega)
  change (if p.length ≠ (BitVec.ofNat 8 p.length).toNat then _ else
    if tag.toNat < 128 ∧ tag ∉ registeredTags then _ else _) = _
  rw [if_neg (not_not.2 hbyte.symm), if_neg hknown, hparse]

theorem decode_encode_packed {i : Instr} {x : Byte × List Byte} (hi : i.wellFormed = true)
    (hpacked : packed i = some x) : decodeTlv (encode i) = .ok i := by
  obtain ⟨hparse, hlen, htag⟩ := parseKind_packed hi hpacked
  rw [encode_of_packed hpacked]
  exact decodeTlv_encodeTlv htag hlen hparse

theorem withBytes_encodeBytes {p : List Byte} (hp : bytesOk p = true) (f : List Byte → Instr) :
    withBytes (encodeBytes p) f = .ok (f p) := by
  have hp : p.length ≤ 65535 := of_decide_eq_true hp
  have hcount : (BitVec.ofNat 16 p.length).toNat = p.length := Nat.mod_eq_of_lt (by omega)
  have hbytes := withBytes_bigEndian hp f
  rw [← hcount, ← be16_eq_bigEndian] at hbytes
  exact hbytes

/-- A frame is read back whatever the values of its fields are; of its `bytes` operand only the count must fit. -/
theorem decodeFrame_encode {i : Instr} (hi : i.wellFormed = true) (hformat : i.format = .cmd) :
    decodeFrame (encode i) = .ok i := by
  cases i
  case csrRd n => rfl
  case bufRd off n =>
    change Except.ok (Instr.bufRd (u16 _ _) (u16 _ _)) = _
    rw [u16_extractLsb', u16_extractLsb']
  case obufRd off n => exact decodeFrame_obufRd off n
  case asmReset cap => exact congrArg (fun x => Except.ok (Instr.asmReset x)) (u16_extractLsb' cap)
  case asmPut8 v => rfl
  case asmPut16 v => exact congrArg (fun x => Except.ok (Instr.asmPut16 x)) (u16_extractLsb' v)
  case asmPut32 v => exact congrArg (fun x => Except.ok (Instr.asmPut32 x)) (u32_extractLsb' v)
  case asmPutn b => exact withBytes_encodeBytes hi _
  case asmPutf w v => exact congrArg (fun x => Except.ok (Instr.asmPutf w x)) (u32_extractLsb' v)
  case asmRsv8 => rfl
  case asmRsv12 hi => rfl
  case asmPatch => rfl
  case descSize tag p => exact withBytes_encodeBytes hi _
  case descEnc tag p => exact withBytes_encodeBytes hi _
  case descDec k b => exact withBytes_encodeBytes hi _
  case secInit t nid v pid => exact decodeFrame_secInit t nid v pid
  case secAddd tag p => exact withBytes_encodeBytes hi _
  case secAdde ts on => exact decodeFrame_secAdde ts on
  case entAddd h tag p =>
    change withBytes (encodeBytes p) (Instr.entAddd (u16 _ _) tag) = _
    rw [u16_extractLsb', withBytes_encodeBytes hi]
  case secSize => rfl
  case secEnc cap => exact decodeFrame_secEnc cap
  case crcCalc off len => exact decodeFrame_crcCalc off len
  case pktSize => rfl
  case pktEnc cap => exact decodeFrame_pktEnc cap
  all_goals cases hformat

/-! ### Wire patterns (R76, R77, R79 to R81) -/

/-- The count in the last 12 bits of a length word, and the flags in front of it (R76). -/
theorem lengthWord_extractLsb' (flags : BitVec 4) (count : BitVec 12) :
    ((flags ++ count : BitVec (4 + 12)).extractLsb' 8 8).extractLsb' 4 4 = flags ∧
      ((flags ++ count : BitVec (4 + 12)).extractLsb' 8 8).extractLsb' 0 4 ++
        (flags ++ count : BitVec (4 + 12)).extractLsb' 0 8 = count := by
  constructor
  all_goals
    apply BitVec.eq_of_toNat_eq
    simp only [extractLsb'_eq_ofNat_div, toNat_append_eq_mul_add, BitVec.toNat_ofNat]
    omega

theorem decodeWireLengthWord_lengthWordBytes (flags : BitVec 4) (count : BitVec 12) :
    decodeWireLengthWord (lengthWordBytes flags count) = .ok (.wireLengthWord flags count) := by
  obtain ⟨hflags, hcount⟩ := lengthWord_extractLsb' flags count
  exact congrArg Except.ok ((Instr.wireLengthWord.injEq ..).mpr ⟨hflags, hcount⟩)

theorem versionByte_extractLsb' (version : BitVec 5) :
    let v : Byte := (Config.verRsv ++ version ++ Config.cni : BitVec (2 + 5 + 1))
    v.extractLsb' 6 2 = Config.verRsv ∧ v.extractLsb' 0 1 = Config.cni ∧ v.extractLsb' 1 5 = version := by
  refine ⟨?_, ?_, ?_⟩
  all_goals
    simp only [extractLsb'_eq_iff, toNat_append_eq_mul_add, Config.verRsv, Config.cni, BitVec.toNat_ofNat]
    omega

theorem decodeWireSectionHeader_sectionHeaderBytes (t : Byte) (len : BitVec 12) (nid : Half) (version : BitVec 5) :
    decodeWireSectionHeader (sectionHeaderBytes t len nid version) = .ok (.wireSectionHeader t len nid version) := by
  obtain ⟨hflags, hlen⟩ := lengthWord_extractLsb' Config.secFlags len
  obtain ⟨hrsv, hcni, hversion⟩ := versionByte_extractLsb' version
  refine (if_pos ⟨hflags, hrsv, hcni, rfl, rfl⟩).trans ?_
  exact congrArg Except.ok ((Instr.wireSectionHeader.injEq ..).mpr ⟨rfl, hlen, u16_extractLsb' nid, hversion⟩)

theorem tsWord_extractLsb' (start : BitVec 1) (pid : BitVec 13) :
    let w : Half := (Config.tsTei ++ start ++ Config.tsPrio ++ pid : BitVec (1 + 1 + 1 + 13))
    (w.extractLsb' 8 8).extractLsb' 7 1 = Config.tsTei ∧ (w.extractLsb' 8 8).extractLsb' 5 1 = Config.tsPrio ∧
      (w.extractLsb' 8 8).extractLsb' 6 1 = start ∧ (w.extractLsb' 8 8).extractLsb' 0 5 ++ w.extractLsb' 0 8 = pid := by
  refine ⟨?_, ?_, ?_, ?_⟩
  all_goals
    apply BitVec.eq_of_toNat_eq
    simp only [extractLsb'_eq_ofNat_div, toNat_append_eq_mul_add, Config.tsTei, Config.tsPrio, BitVec.toNat_ofNat]
    omega

theorem decodeWireTsHeader_tsHeaderBytes (start : BitVec 1) (pid : BitVec 13) :
    decodeWireTsHeader (tsHeaderBytes start pid) = .ok (.wireTsHeader start pid) := by
  obtain ⟨htei, hprio, hstart, hpid⟩ := tsWord_extractLsb' start pid
  refine (if_pos ⟨rfl, htei, hprio, rfl⟩).trans ?_
  exact congrArg Except.ok ((Instr.wireTsHeader.injEq ..).mpr ⟨hstart, hpid⟩)

theorem decode_encode_wire {i : Instr} (hcmd : i.format ≠ .cmd) (htlv : i.format ≠ .tlv) :
    decode i.format (encode i) = .ok i := by
  cases i
  case wireDescriptor tag length => rfl
  case wireLengthWord flags count => exact decodeWireLengthWord_lengthWordBytes flags count
  case wireSectionHeader t len nid version => exact decodeWireSectionHeader_sectionHeaderBytes t len nid version
  case wireEntityHeader ts on =>
    exact congrArg Except.ok ((Instr.wireEntityHeader.injEq ..).mpr ⟨u16_extractLsb' ts, u16_extractLsb' on⟩)
  case wireCrcTrailer crc => exact congrArg (fun x => Except.ok (Instr.wireCrcTrailer x)) (u32_extractLsb' crc)
  case wireTsHeader start pid => exact decodeWireTsHeader_tsHeaderBytes start pid
  case wirePointerField => rfl
  all_goals simp [Instr.format] at hcmd htlv

/-- The rows written as encoded descriptors are the pseudo-instructions of a kind (R83). -/
theorem isSome_packed (i : Instr) : (packed i).isSome = (i.format == .tlv) := by
  cases i
  all_goals rfl

/-- Settles O57: by the format of the words. -/
theorem decodeOfEncodeIsTheInstruction : Obligations.DecodeOfEncodeIsTheInstruction := by
  intro i hi
  by_cases hcmd : i.format = .cmd
  · rw [hcmd]
    exact decodeFrame_encode hi hcmd
  by_cases htlv : i.format = .tlv
  · obtain ⟨x, hpacked⟩ := Option.isSome_iff_exists.1 ((isSome_packed i).trans (beq_iff_eq.2 htlv))
    rw [htlv]
    exact decode_encode_packed hi hpacked
  · exact decode_encode_wire hcmd htlv

/-- Settles O60: the decoder computes. -/
theorem sampleWordsDecode : Obligations.SampleWordsDecode := ⟨rfl, rfl, rfl, rfl, rfl, rfl, rfl⟩

end Sys2Proof.Machine
end

section
/-! PROOFS. What the lines of a pseudo-instruction print (spec 30_encoding.md R96, 40_assembly_patcher.md R107, R111): each
line appends its bytes behind those of the lines before it, a run of bit fields of whole bytes appends their concatenation,
and a length-prefixed body appends its exact length and itself. -/

namespace Sys2Proof.Machine

-- Each proof is checked before the next one begins: many at once would wait on one another in threads.
set_option Elab.async false

/-! ### One list of lines after another -/

theorem runLines_append_ok {ls : List Line} (ms : List Line) {s t : State} (h : runLines ls s = .next t)
    (ok : t.status = 0#3) : runLines (ls ++ ms) s = runLines ms t := by
  induction ls generalizing s with
  | nil =>
    obtain rfl : s = t := Host.Outcome.next.inj h
    rfl
  | cons l ls ih =>
    cases hl : l.run s with
    | next u =>
      simp only [List.cons_append, runLines, hl] at h ⊢
      split at h
      next hok =>
        rw [if_pos hok]
        exact ih h
      next hbad => exact absurd (Host.Outcome.next.inj h ▸ ok) hbad
    | fault f => simp [runLines, hl] at h
    | refused r => simp [runLines, hl] at h

/-- The lines are run as their commands. -/
theorem runLines_eq_runAll (ls : List Line) (s : State) : runLines ls s = runAll (ls.map Line.instr) s := by
  induction ls generalizing s with
  | nil => rfl
  | cons l ls ih =>
    have hrun := Line.run_eq_exec l s
    cases hexec : exec l.instr s with
    | next t => simp [runLines, runAll, hrun, hexec, ih]
    | fault f => simp [runLines, runAll, hrun, hexec]
    | refused r => simp [runLines, runAll, hrun, hexec]

/-! ### Lines that append -/

/-- With room, a line that is an append of `bs` answers the new WP. -/
theorem run_of_room {l : Line} {bs : List Byte} (h : ∀ s, l.run s = finish s (appendDone bs s)) {s : State}
    (hroom : Room s bs.length) : l.run s = .next (complete (appended bs s).wp.toNat [] (appended bs s)) := by
  obtain ⟨hnb, hfit, hcap⟩ := hroom
  rw [h, appendDone_eq, if_pos hnb, if_pos hfit, if_pos (hfit.trans hcap)]
  rfl

/-- Behind whatever has been appended so far, the lines append exactly `bs`, with at most `k` length fields open at once;
`bits` says that they pack bits, which begin on an empty accumulator. -/
def Prints (k : Nat) (bits : Bool) (ls : List Line) (bs : List Byte) : Prop :=
  ∀ (s : State) (xs : List Byte) (v : Word), s.pstk.length + k ≤ 8 → Room s (xs.length + bs.length) →
    (bits = true → s.bv = 0#7) →
    ∃ w : Word, runLines ls ((appended xs s).answered 0#3 v []) = .next ((appended (xs ++ bs) s).answered 0#3 w [])

section
variable {k : Nat} {bits : Bool}

theorem prints_nil : Prints k bits [] [] := by
  intro s xs v _ _ _
  exact ⟨v, by rw [List.append_nil, runLines_nil]⟩

theorem Prints.append {ls ms : List Line} {as bs : List Byte} (hls : Prints k bits ls as) (hms : Prints k bits ms bs) :
    Prints k bits (ls ++ ms) (as ++ bs) := by
  intro s xs v hdepth hroom hbits
  rw [List.length_append] at hroom
  obtain ⟨w, hfirst⟩ := hls s xs v hdepth (room_mono hroom (by omega)) hbits
  obtain ⟨w', hsecond⟩ := hms s (xs ++ as) w hdepth (room_mono hroom (by rw [List.length_append]; omega)) hbits
  exact ⟨w', by rw [runLines_append_ok ms hfirst rfl, hsecond, List.append_assoc]⟩

theorem Prints.flatMap {α : Type} {f : α → List Line} {g : α → List Byte} {xs : List α}
    (h : ∀ x ∈ xs, Prints k bits (f x) (g x)) : Prints k bits (xs.flatMap f) (xs.flatMap g) := by
  induction xs with
  | nil => exact prints_nil
  | cons x xs ih => exact (h x List.mem_cons_self).append (ih fun y hy => h y (List.mem_cons_of_mem _ hy))

/-- A line that is an append of `bs`. -/
theorem prints_of_run {l : Line} {bs : List Byte} (h : ∀ s, l.run s = finish s (appendDone bs s)) :
    Prints k bits [l] bs := by
  intro s xs v _ hroom _
  have hxs : s.wp.toNat + xs.length ≤ s.cap.toNat := (room_mono hroom (Nat.le_add_right _ _)).2.1
  have hrun := run_of_room h (s := (appended xs s).answered 0#3 v []) (room_appended hroom)
  rw [runLines_cons_ok [] hrun rfl, ← appended_appended hxs]
  exact ⟨_, rfl⟩

theorem prints_put8 (v : Byte) : Prints k bits [.put8 v] [v] := prints_of_run fun _ => rfl

theorem prints_put16 (v : Half) : Prints k bits [.put16 v] (be16 v) := prints_of_run fun _ => rfl

theorem prints_put32 (v : Word) : Prints k bits [.put32 v] (be32 v) := prints_of_run fun _ => rfl

theorem prints_putn (b : List Byte) : Prints k bits [.putn b] b := prints_of_run fun _ => rfl

theorem prints_langLine (l : Lang) : Prints k bits [langLine l] (langBytes l) := prints_putn _

theorem prints_put16Opt (o : Option Half) : Prints k bits (put16Opt o) (be16Opt o) := by
  cases o with
  | none => exact prints_nil
  | some v => exact prints_put16 v

theorem prints_map_put32 (vs : List Word) : Prints k bits (vs.map .put32) (be32s vs) := by
  rw [← List.flatMap_singleton' (vs.map _), List.flatMap_map]
  exact Prints.flatMap fun v _ => prints_put32 v

/-! ### Length-prefixed bodies (R108, R110, R111) -/

/-- A length-prefixed body appends its exact length and itself, and answers the length. -/
theorem runLines_lenPrefixed {body : List Line} {bs : List Byte} (hbody : Prints k bits body bs) (hlen : bs.length ≤ 255)
    {s : State} (hdepth : s.pstk.length + (k + 1) ≤ 8) (hroom : Room s (bs.length + 1)) (hbits : bits = true → s.bv = 0#7) :
    runLines (lenPrefixed body) s = .next ((appended (lenBytes bs) s).answered 0#3 (BitVec.ofNat 32 bs.length) []) := by
  have hreserve : Line.rsv8.run s = .next (complete s.wp.toNat [] (reserved .w8 [Config.placeholder] s)) := by
    have hfield : reserve8 s = _ := reserve_of_room (by omega) (room_mono hroom (Nat.le_add_left 1 _))
    change finish s (reserve8 s >>= _) = _
    rw [hfield]
    rfl
  obtain ⟨w, hrun⟩ := hbody { s with pstk := ⟨s.wp, .w8⟩ :: s.pstk } [Config.placeholder] (toResult s.wp.toNat)
    (show s.pstk.length + 1 + k ≤ 8 by omega) (room_mono hroom (Nat.add_comm 1 _).le) hbits
  have hpatch : Line.patch.run ((appended (Config.placeholder :: bs)
      { s with pstk := ⟨s.wp, .w8⟩ :: s.pstk }).answered 0#3 w []) =
      .next ((appended (lenBytes bs) s).answered 0#3 (BitVec.ofNat 32 bs.length) []) := by
    have hwp : s.wp.toNat + 1 ≤ s.cap.toNat := (room_mono hroom (Nat.le_add_left 1 _)).2.1
    have hclose := patchTop_of_body (s := s.answered 0#3 w []) hlen hroom
    rw [appended_reserved (bs := [Config.placeholder]) bs (s := s.answered 0#3 w []) hwp] at hclose
    change finish _ (patchTop { appended ([Config.placeholder] ++ bs) (s.answered 0#3 w []) with
      pstk := ⟨s.wp, .w8⟩ :: s.pstk } >>= _) = _
    rw [← toResult_of_lt (show bs.length < 2 ^ 32 by omega)]
    refine (congrArg (fun r => finish _ (r >>= _)) hclose).trans rfl
  rw [lenPrefixed, runLines_cons_ok _ hreserve rfl]
  exact (runLines_append_ok [.patch] hrun rfl).trans (runLines_cons_ok [] hpatch rfl)

theorem Prints.lenPrefixed {body : List Line} {bs : List Byte} (hbody : Prints k bits body bs) (hlen : bs.length ≤ 255) :
    Prints (k + 1) bits (lenPrefixed body) (lenBytes bs) := by
  intro s xs v hdepth hroom hbits
  have hxs : s.wp.toNat + xs.length ≤ s.cap.toNat := (room_mono hroom (Nat.le_add_right _ _)).2.1
  have hrest : Room ((appended xs s).answered 0#3 v []) (bs.length + 1) := room_appended hroom
  have hrun := runLines_lenPrefixed hbody hlen (s := (appended xs s).answered 0#3 v []) hdepth hrest hbits
  rw [hrun, ← appended_appended hxs]
  exact ⟨_, rfl⟩

theorem prints_textLines {t : List Byte} (ht : t.length ≤ 255) : Prints (k + 1) bits (textLines t) (lenBytes t) :=
  (prints_putn t).lenPrefixed ht

end

/-! ### Bit fields (R106, R107) -/

/-- With room for the bytes they complete, the lines append the bits of `x` to the accumulator. -/
def PutsBits (ls : List Line) {w : Nat} (x : BitVec w) : Prop :=
  ∀ s : State, s.cap.toNat ≤ Config.bufSize → s.wp.toNat + (s.nb.toNat + w) / 8 ≤ s.cap.toNat →
    runLines ls s = .next (fieldDone w x.toNat s)

theorem putsBits_putBits {w : Nat} (x : BitVec w) (hpos : 1 ≤ w := by decide) (hle : w ≤ 32 := by decide) :
    PutsBits [putBits x] x := by
  intro s hcap fits
  have hw : (BitVec.ofNat 8 w).toNat = w := Nat.mod_eq_of_lt (by omega)
  have hx : (x.setWidth 32).toNat = x.toNat := BitVec.toNat_setWidth_of_le hle
  have hrun : (putBits x).run s = .next (fieldDone w x.toNat s) := by
    have hexec := exec_asmPutf_of_room (s := s) (inRange_putBits x hpos hle) (by rw [hw]; exact fits) hcap
    rw [hw, hx] at hexec
    exact hexec
  exact runLines_cons_ok [] hrun rfl

/-- A field behind others: their concatenation. -/
theorem PutsBits.snoc {ls : List Line} {a b : Nat} {x : BitVec a} (h : PutsBits ls x) (y : BitVec b)
    (hpos : 1 ≤ b := by decide) (hle : b ≤ 32 := by decide) : PutsBits (ls ++ [putBits y]) (x ++ y) := by
  intro s hcap fits
  have hfirst : s.wp.toNat + (s.nb.toNat + a) / 8 ≤ s.cap.toNat := by omega
  have hwp : (fieldDone a x.toNat s).wp.toNat = s.wp.toNat + (s.nb.toNat + a) / 8 := packedBits_wp_toNat hfirst
  have hnb : (fieldDone a x.toNat s).nb.toNat = (s.nb.toNat + a) % 8 := packedBits_nb_toNat a x.toNat s
  have hsecond := putsBits_putBits y hpos hle (fieldDone a x.toNat s) hcap (show _ ≤ s.cap.toNat by omega)
  rw [runLines_append_ok _ (h s hcap hfirst) rfl, hsecond, fieldDone_fieldDone y.isLt hfirst, toNat_append_eq_mul_add]

/-- Fields that fill whole bytes. -/
theorem PutsBits.prints {ls : List Line} {w q k : Nat} {x : BitVec w} (h : PutsBits ls x) (hw : w = 8 * q) :
    Prints k true ls (beBytes q x.toNat) := by
  intro s xs v _ hroom hbits
  subst hw
  rw [length_beBytes] at hroom
  have hxs : s.wp.toNat + xs.length ≤ s.cap.toNat := (room_mono hroom (Nat.le_add_right _ _)).2.1
  have hrest : Room ((appended xs s).answered 0#3 v []) q := room_appended hroom
  have hnb := hrest.1
  have hfit := hrest.2.1
  have hrun := h ((appended xs s).answered 0#3 v []) hrest.2.2 (by
    rw [hnb, show (0#3 : BitVec 3).toNat = 0 from rfl, Nat.zero_add, Nat.mul_div_cancel_left q (by decide)]
    exact hfit)
  rw [hrun, fieldDone_of_aligned hrest (hbits rfl), ← appended_appended hxs]
  exact ⟨_, rfl⟩

/-- Fields that fill one byte. -/
theorem PutsBits.prints8 {ls : List Line} {k : Nat} {x : Byte} (h : PutsBits ls x) : Prints k true ls [x] := by
  have hprints := h.prints (k := k) (q := 1) rfl
  rw [beBytes, beBytes, pow_zero, Nat.div_one, BitVec.ofNat_toNat, BitVec.setWidth_eq] at hprints
  exact hprints

theorem PutsBits.prints16 {ls : List Line} {k : Nat} {x : Half} (h : PutsBits ls x) : Prints k true ls (be16 x) := by
  rw [be16_eq_bigEndian, bigEndian_eq_beBytes]
  exact h.prints rfl

theorem PutsBits.prints32 {ls : List Line} {k : Nat} {x : Word} (h : PutsBits ls x) : Prints k true ls (be32 x) := by
  rw [be32_eq_bigEndian, bigEndian_eq_beBytes]
  exact h.prints rfl

/-! ### A whole pseudo-instruction (R96) -/

/-- With no bits pending, BACC.bv is 0 (R28). -/
theorem bv_eq_zero_of_lt {s : State} (hbv : s.bv.toNat < 2 ^ s.nb.toNat) (hnb : s.nb = 0#3) : s.bv = 0#7 := by
  rw [hnb] at hbv
  exact BitVec.eq_of_toNat_eq (Nat.lt_one_iff.1 hbv)

/-- A pseudo-instruction appends its encoded descriptor and answers the length of its payload. -/
theorem appended_packLines {k : Nat} {bits : Bool} {body : List Line} {tag : Byte} {p : List Byte}
    (hbody : Prints k bits body p) (hlen : p.length ≤ 255) {s : State} (hdepth : s.pstk.length + (k + 1) ≤ 8)
    (hroom : Room s (2 + p.length)) (hbits : bits = true → s.bv.toNat < 2 ^ s.nb.toNat) :
    Appended (runLines (packLines tag body) s) s (encodeTlv (tag, p)) p.length := by
  have hfirst : Room s 1 := room_mono hroom (by omega)
  have hput : (Line.put8 tag).run s = .next (complete (appended [tag] s).wp.toNat [] (appended [tag] s)) :=
    run_of_room (fun _ => rfl) hfirst
  have hrest : Room (appended [tag] s) (p.length + 1) :=
    room_appended (xs := [tag]) (room_mono hroom (show 1 + (p.length + 1) ≤ _ by omega))
  have hrun := runLines_lenPrefixed hbody hlen (s := complete (appended [tag] s).wp.toNat [] (appended [tag] s)) hdepth
    hrest (fun h => bv_eq_zero_of_lt (hbits h) hroom.1)
  have happend : appended (lenBytes p) (appended [tag] s) = appended (encodeTlv (tag, p)) s :=
    appended_appended hfirst.2.1
  refine ⟨_, (runLines_cons_ok _ hput rfl).trans hrun, ?_, ?_⟩
  · change Stored s.buf (appended (lenBytes p) (appended [tag] s)).buf _ _
    rw [happend]
    exact appended_stored _ s
  · change (appended (lenBytes p) (appended [tag] s)).answered _ _ _ =
      ({ s with
          buf := (appended (lenBytes p) (appended [tag] s)).buf
          wp := _, encValid := false } : State).answered _ _ _
    rw [happend]
    rfl

end Sys2Proof.Machine
end

section
/-! PROOFS. The pseudo-instructions one by one (spec 42_descriptor_kinds.md R150 to R166): what the lines of each kind print
is its layout, so each PACK appends its encoded descriptor. -/

namespace Sys2Proof.Machine

-- Each proof is checked before the next one begins: many at once would wait on one another in threads.
set_option Elab.async false

/-! ### Whole bytes (R150, R151, R161, R164, R166) -/

section
variable {k : Nat} {bits : Bool}

theorem prints_serviceListLines (es : List ServiceEntry) :
    Prints k bits (serviceListLines es) (serviceListBytes es) :=
  Prints.flatMap fun e _ => (prints_put16 e.serviceId).append (prints_put8 e.serviceType)

theorem serviceListBytes_eq (es : List ServiceEntry) :
    serviceListBytes es = es.flatMap fun e => bigEndian 2 e.serviceId.toNat ++ [e.serviceType] := by
  simp only [serviceListBytes, be16_eq_bigEndian]

theorem length_serviceListBytes (es : List ServiceEntry) : (serviceListBytes es).length = 3 * es.length := by
  induction es with
  | nil => rfl
  | cons e es ih =>
    change (serviceListBytes es).length + 3 = _
    rw [ih, List.length_cons, Nat.mul_succ]

/-- An extension that is not read as a T2 value is put as it stands. -/
theorem extensionLines_raw {x : Byte} {body : List Byte} (h : x ≠ 0x04#8 ∨ parseT2 (x :: body) = none) :
    extensionLines x body = [.put8 x, .putn body] := by
  unfold extensionLines
  rcases h with hx | hnone
  · rw [if_neg hx]
  · rw [hnone]
    split <;> rfl

/-- Bytes under tag_extension 0x04 that hold a T2 value are put by that value's lines. -/
theorem extensionLines_t2 {body : List Byte} {v : T2Delivery} (h : parseT2 (0x04#8 :: body) = some v) :
    extensionLines 0x04#8 body = .put8 0x04#8 :: t2BodyLines v := by
  rw [extensionLines, if_pos rfl, h]

/-- Settles O37: each body is lines of whole bytes. -/
theorem packAppendsByteKinds : Obligations.PackAppendsByteKinds := by
  intro s hdepth
  have nobits : false = true → s.bv.toNat < 2 ^ s.nb.toNat := nofun
  refine ⟨fun text hlen hroom => ?_, fun es hlen hroom => ?_, fun v hroom => ?_, fun x body hx hlen hroom => ?_,
    fun body v hparse => ?_, fun tag raw hlen hroom => ?_⟩
  · exact appended_packLines (prints_putn text) hlen (k := 0) hdepth hroom nobits
  · rw [← serviceListBytes_eq, ← length_serviceListBytes] at *
    exact appended_packLines (prints_serviceListLines es) hlen (k := 0) hdepth hroom nobits
  · rw [← be32_eq_bigEndian]
    exact appended_packLines (prints_put32 v) (show 4 ≤ 255 by decide) (k := 0) hdepth hroom nobits
  · have hbody := extensionLines_raw hx
    have happend := appended_packLines (p := x :: body) (tag := 0x7F#8) ((prints_put8 x).append (prints_putn body))
      (show body.length + 1 ≤ 255 by omega) (k := 0) hdepth (by rw [List.length_cons]; exact room_mono hroom (by omega)) nobits
    change Appended (runLines (packLines 0x7F#8 (extensionLines x body)) s) s _ _
    rw [hbody, Nat.add_comm]
    exact happend
  · change runLines (packLines 0x7F#8 (extensionLines 0x04#8 body)) s = _
    rw [extensionLines_t2 hparse]
    rfl
  · exact appended_packLines (prints_putn raw) hlen (k := 0) hdepth hroom nobits

end

/-! ### Bit-packed fields (R152, R153, R154, R162) -/

section
variable {k : Nat}

theorem prints_satDeliveryLines (v : SatDelivery) : Prints k true (satDeliveryLines v) (satDeliveryBytes v) := by
  have hflags : PutsBits [putBits v.westEastFlag, putBits v.polarization, putBits v.rollOff, putBits v.modulationSystem,
      putBits v.modulationType] (v.westEastFlag ++ v.polarization ++ v.rollOff ++ v.modulationSystem ++ v.modulationType) :=
    ((((putsBits_putBits _).snoc _).snoc _).snoc _).snoc _
  have hrate : PutsBits [putBits v.symbolRate, putBits v.fecInner] (v.symbolRate ++ v.fecInner) :=
    (putsBits_putBits _).snoc _
  exact (((prints_put32 v.frequency).append (prints_put16 v.orbitalPosition)).append hflags.prints8).append hrate.prints32

theorem prints_cableDeliveryLines (v : CableDelivery) :
    Prints k true (cableDeliveryLines v) (cableDeliveryBytes v) := by
  have houter : PutsBits [putBits 0xFFF#12, putBits v.fecOuter] (0xFFF#12 ++ v.fecOuter) := (putsBits_putBits _).snoc _
  have hrate : PutsBits [putBits v.symbolRate, putBits v.fecInner] (v.symbolRate ++ v.fecInner) :=
    (putsBits_putBits _).snoc _
  exact (((prints_put32 v.frequency).append houter.prints16).append (prints_put8 v.modulation)).append hrate.prints32

theorem prints_terrDeliveryLines (v : TerrDelivery) : Prints k true (terrDeliveryLines v) (terrDeliveryBytes v) := by
  have hwidth : PutsBits [putBits v.bandwidth, putBits v.priority, putBits v.timeSlicingIndicator,
      putBits v.mpeFecIndicator, putBits 0b11#2]
      (v.bandwidth ++ v.priority ++ v.timeSlicingIndicator ++ v.mpeFecIndicator ++ 0b11#2) :=
    ((((putsBits_putBits _).snoc _).snoc _).snoc _).snoc _
  have hcode : PutsBits [putBits v.constellation, putBits v.hierarchyInformation, putBits v.codeRateHp]
      (v.constellation ++ v.hierarchyInformation ++ v.codeRateHp) := ((putsBits_putBits _).snoc _).snoc _
  have hguard : PutsBits [putBits v.codeRateLp, putBits v.guardInterval, putBits v.transmissionMode,
      putBits v.otherFrequencyFlag]
      (v.codeRateLp ++ v.guardInterval ++ v.transmissionMode ++ v.otherFrequencyFlag) :=
    (((putsBits_putBits _).snoc _).snoc _).snoc _
  exact ((prints_put32 v.centreFrequency).append ((hwidth.prints8.append hcode.prints8).append hguard.prints8)).append
    (prints_put32 0xFFFFFFFF#32)

theorem prints_frequencyListLines (v : FrequencyList) :
    Prints k true (frequencyListLines v) (frequencyListBytes v) := by
  have hcoding : PutsBits [putBits 0b111111#6, putBits v.codingType] (0b111111#6 ++ v.codingType) :=
    (putsBits_putBits _).snoc _
  exact hcoding.prints8.append (prints_map_put32 v.frequencies)

end

/-- The bytes of a concatenation, where its last part is of whole bytes. -/
theorem bigEndian_append (j k : Nat) {m n : Nat} (x : BitVec m) (y : BitVec n) (hn : n = 8 * k) :
    bigEndian (j + k) (x ++ y).toNat = bigEndian j x.toNat ++ bigEndian k y.toNat := by
  have hpow : 2 ^ n = 256 ^ k := by
    rw [hn, pow_mul]
    rfl
  simp only [bigEndian_eq_beBytes]
  rw [toNat_append_eq_mul_add, hpow, beBytes_add j k _ (hpow ▸ y.isLt)]

/-- One byte. -/
theorem bigEndian_one (x : Byte) : bigEndian 1 x.toNat = [x] := by
  rw [bigEndian_eq_beBytes, beBytes, beBytes, pow_zero, Nat.div_one, BitVec.ofNat_toNat, BitVec.setWidth_eq]

/-- The layout of R152 as one number. -/
theorem satDeliveryBytes_eq (v : SatDelivery) :
    satDeliveryBytes v = bigEndian 11
      (v.frequency ++ v.orbitalPosition ++ v.westEastFlag ++ v.polarization ++ v.rollOff ++ v.modulationSystem ++
        v.modulationType ++ v.symbolRate ++ v.fecInner : BitVec (32 + 16 + 1 + 2 + 2 + 1 + 2 + 28 + 4)).toNat := by
  have hnumber : (v.frequency ++ v.orbitalPosition ++ v.westEastFlag ++ v.polarization ++ v.rollOff ++
      v.modulationSystem ++ v.modulationType ++ v.symbolRate ++ v.fecInner :
        BitVec (32 + 16 + 1 + 2 + 2 + 1 + 2 + 28 + 4)).toNat =
      (v.frequency ++ v.orbitalPosition ++ (v.westEastFlag ++ v.polarization ++ v.rollOff ++ v.modulationSystem ++
        v.modulationType : BitVec (1 + 2 + 2 + 1 + 2)) ++ (v.symbolRate ++ v.fecInner : BitVec (28 + 4))).toNat := by
    simp only [toNat_append_eq_mul_add]
    ring
  rw [hnumber, bigEndian_append 7 4 _ _ rfl, bigEndian_append 6 1 _ _ rfl, bigEndian_append 4 2 _ _ rfl,
    ← be32_eq_bigEndian, ← be32_eq_bigEndian, ← be16_eq_bigEndian, bigEndian_one]
  rfl

/-- The layout of R153 as one number. -/
theorem cableDeliveryBytes_eq (v : CableDelivery) :
    cableDeliveryBytes v = bigEndian 11
      (v.frequency ++ 0xFFF#12 ++ v.fecOuter ++ v.modulation ++ v.symbolRate ++ v.fecInner :
        BitVec (32 + 12 + 4 + 8 + 28 + 4)).toNat := by
  have hnumber : (v.frequency ++ 0xFFF#12 ++ v.fecOuter ++ v.modulation ++ v.symbolRate ++ v.fecInner :
      BitVec (32 + 12 + 4 + 8 + 28 + 4)).toNat =
      (v.frequency ++ (0xFFF#12 ++ v.fecOuter : BitVec (12 + 4)) ++ v.modulation ++
        (v.symbolRate ++ v.fecInner : BitVec (28 + 4))).toNat := by
    simp only [toNat_append_eq_mul_add]
    ring
  rw [hnumber, bigEndian_append 7 4 _ _ rfl, bigEndian_append 6 1 _ _ rfl, bigEndian_append 4 2 _ _ rfl,
    ← be32_eq_bigEndian, ← be32_eq_bigEndian, ← be16_eq_bigEndian, bigEndian_one]
  rfl

/-- The layout of R154 as one number. -/
theorem terrDeliveryBytes_eq (v : TerrDelivery) :
    terrDeliveryBytes v = bigEndian 11
      (v.centreFrequency ++ v.bandwidth ++ v.priority ++ v.timeSlicingIndicator ++ v.mpeFecIndicator ++ 3#2 ++
        v.constellation ++ v.hierarchyInformation ++ v.codeRateHp ++ v.codeRateLp ++ v.guardInterval ++
        v.transmissionMode ++ v.otherFrequencyFlag ++ 0xFFFFFFFF#32 :
        BitVec (32 + 3 + 1 + 1 + 1 + 2 + 2 + 3 + 3 + 3 + 2 + 2 + 1 + 32)).toNat := by
  have hnumber : (v.centreFrequency ++ v.bandwidth ++ v.priority ++ v.timeSlicingIndicator ++ v.mpeFecIndicator ++ 3#2 ++
      v.constellation ++ v.hierarchyInformation ++ v.codeRateHp ++ v.codeRateLp ++ v.guardInterval ++
      v.transmissionMode ++ v.otherFrequencyFlag ++ 0xFFFFFFFF#32 :
        BitVec (32 + 3 + 1 + 1 + 1 + 2 + 2 + 3 + 3 + 3 + 2 + 2 + 1 + 32)).toNat =
      (v.centreFrequency ++
        (v.bandwidth ++ v.priority ++ v.timeSlicingIndicator ++ v.mpeFecIndicator ++ 3#2 :
          BitVec (3 + 1 + 1 + 1 + 2)) ++
        (v.constellation ++ v.hierarchyInformation ++ v.codeRateHp : BitVec (2 + 3 + 3)) ++
        (v.codeRateLp ++ v.guardInterval ++ v.transmissionMode ++ v.otherFrequencyFlag : BitVec (3 + 2 + 2 + 1)) ++
        0xFFFFFFFF#32).toNat := by
    simp only [toNat_append_eq_mul_add]
    ring
  rw [hnumber, bigEndian_append 7 4 _ _ rfl, bigEndian_append 6 1 _ _ rfl, bigEndian_append 5 1 _ _ rfl,
    bigEndian_append 4 1 _ _ rfl, ← be32_eq_bigEndian, ← be32_eq_bigEndian, bigEndian_one, bigEndian_one, bigEndian_one]
  rfl

/-- The layout of R162 in numbers. -/
theorem frequencyListBytes_eq (v : FrequencyList) :
    frequencyListBytes v =
      BitVec.ofNat 8 (0xFC + v.codingType.toNat) :: v.frequencies.flatMap fun f => bigEndian 4 f.toNat := by
  have hcoding : (0b111111#6 ++ v.codingType : BitVec (6 + 2)) = BitVec.ofNat 8 (0xFC + v.codingType.toNat) := by
    apply BitVec.eq_of_toNat_eq
    rw [toNat_append_eq_mul_add, BitVec.toNat_ofNat, BitVec.toNat_ofNat]
    omega
  simp only [frequencyListBytes, hcoding, be32s, ← be32_eq_bigEndian]

theorem length_frequencyListBytes (v : FrequencyList) :
    (frequencyListBytes v).length = 1 + 4 * v.frequencies.length := by
  rw [frequencyListBytes, List.length_cons, length_be32s, Nat.add_comm]

/-- Settles O38: each layout as one number. -/
theorem packAppendsBitPackedKinds : Obligations.PackAppendsBitPackedKinds := by
  intro s hbv hdepth
  refine ⟨fun v hroom => ?_, fun v hroom => ?_, fun v hroom => ?_, fun v hlen hroom => ?_⟩
  · rw [← satDeliveryBytes_eq]
    exact appended_packLines (prints_satDeliveryLines v) (show 11 ≤ 255 by decide) (k := 0) hdepth hroom fun _ => hbv
  · rw [← cableDeliveryBytes_eq]
    exact appended_packLines (prints_cableDeliveryLines v) (show 11 ≤ 255 by decide) (k := 0) hdepth hroom fun _ => hbv
  · rw [← terrDeliveryBytes_eq]
    exact appended_packLines (prints_terrDeliveryLines v) (show 11 ≤ 255 by decide) (k := 0) hdepth hroom fun _ => hbv
  · have happend := appended_packLines (tag := 0x62#8) (prints_frequencyListLines v) (k := 0)
      (by rw [length_frequencyListBytes]; exact hlen) hdepth
      (by rw [length_frequencyListBytes]; exact room_mono hroom (by omega)) fun _ => hbv
    rw [encodeTlv, length_frequencyListBytes, frequencyListBytes_eq] at happend
    exact happend

/-! ### Length-prefixed parts (R157 to R160, R163) -/

section
variable {k : Nat} {bits : Bool}

theorem prints_shortEventLines {v : ShortEvent} (hlen : (shortEventBytes v).length ≤ 255) :
    Prints (k + 1) bits (shortEventLines v) (shortEventBytes v) := by
  obtain ⟨hname, htext⟩ : v.eventName.length ≤ 255 ∧ v.text.length ≤ 255 := by
    simp only [shortEventBytes, List.length_append, length_lenBytes] at hlen
    omega
  rw [shortEventBytes, List.append_assoc]
  exact (prints_langLine v.lang).append ((prints_textLines hname).append (prints_textLines htext))

/-- A part of a list of parts is no longer than all of them. -/
theorem length_le_length_flatMap_of_mem {α : Type} (f : α → List Byte) {x : α} {xs : List α} (hx : x ∈ xs) :
    (f x).length ≤ (xs.flatMap f).length := by
  rw [List.length_flatMap]
  exact List.single_le_sum (fun _ _ => Nat.zero_le _) _ (List.mem_map_of_mem hx)

theorem prints_blockLines {b : LangBlock} (hlen : (blockBytes b).length ≤ 255) :
    Prints (k + 1) bits (blockLines b) (blockBytes b) := by
  rw [blockBytes, List.length_append, length_lenBytes] at hlen
  exact (prints_langLine b.lang).append (prints_textLines (by omega))

theorem prints_mlNetworkName {bs : List LangBlock} (hlen : (mlNetworkNameBytes bs).length ≤ 255) :
    Prints (k + 1) bits (bs.flatMap blockLines) (mlNetworkNameBytes bs) :=
  Prints.flatMap fun _ hb => prints_blockLines ((length_le_length_flatMap_of_mem blockBytes hb).trans hlen)

theorem prints_mlComponentLines {v : MlComponent} (hlen : (mlComponentBytes v).length ≤ 255) :
    Prints (k + 1) bits (mlComponentLines v) (mlComponentBytes v) :=
  (prints_put8 v.componentTag).append (prints_mlNetworkName (Nat.le_of_succ_le hlen))

theorem prints_dataBroadcastLines {v : DataBroadcast} (hlen : (dataBroadcastBytes v).length ≤ 255) :
    Prints (k + 1) bits (dataBroadcastLines v) (dataBroadcastBytes v) := by
  obtain ⟨hselector, htext⟩ : v.selector.length ≤ 255 ∧ v.text.length ≤ 255 := by
    simp only [dataBroadcastBytes, List.length_append, length_lenBytes] at hlen
    omega
  exact ((((prints_put16 v.dataBroadcastId).append (prints_put8 v.componentTag)).append
    (prints_textLines hselector)).append (prints_langLine v.lang)).append (prints_textLines htext)

theorem prints_itemLines {v : EventItem} (hlen : (itemBytes v).length ≤ 255) :
    Prints (k + 1) bits (itemLines v) (itemBytes v) := by
  rw [itemBytes, List.length_append, length_lenBytes, length_lenBytes] at hlen
  exact (prints_textLines (by omega)).append (prints_textLines (by omega))

theorem prints_extendedEventLines {v : ExtendedEvent} (hlen : (extendedEventBytes v).length ≤ 255) :
    Prints (k + 2) true (extendedEventLines v) (extendedEventBytes v) := by
  obtain ⟨hitems, htext⟩ : (v.items.flatMap itemBytes).length ≤ 255 ∧ v.text.length ≤ 255 := by
    simp only [extendedEventBytes, List.length_append, length_lenBytes] at hlen
    omega
  have hnumber : PutsBits [putBits v.descriptorNumber, putBits v.lastDescriptorNumber]
      (v.descriptorNumber ++ v.lastDescriptorNumber) := (putsBits_putBits _).snoc _
  have hlist : Prints (k + 1) true (v.items.flatMap itemLines) (v.items.flatMap itemBytes) :=
    Prints.flatMap fun _ hx => prints_itemLines ((length_le_length_flatMap_of_mem itemBytes hx).trans hitems)
  exact ((hnumber.prints8.append (prints_langLine v.lang)).append (hlist.lenPrefixed hitems)).append
    (prints_textLines htext)

end

/-! ### Parts chosen by selectors and flags (R155, R156, R165) -/

section
variable {k : Nat}

theorem prints_handOverLines (v : HandOver) : Prints k true (handOverLines v) (handOverBytes v) := by
  have htype : PutsBits [putBits v.handOverType, putBits 0b111#3, putBits v.originType]
      (v.handOverType ++ 0b111#3 ++ v.originType) := ((putsBits_putBits _).snoc _).snoc _
  exact (htype.prints8.append (prints_put16Opt _)).append (prints_put16Opt _)

theorem prints_eventLines (v : LinkEvent) : Prints k true (eventLines v) (eventBytes v) := by
  have hflags : PutsBits [putBits v.targetListed, putBits v.eventSimulcast, putBits 0b111111#6]
      (v.targetListed ++ v.eventSimulcast ++ 0b111111#6) := ((putsBits_putBits _).snoc _).snoc _
  exact (prints_put16 v.targetEventId).append hflags.prints8

theorem prints_targetLines (v : LinkTarget) : Prints k true (targetLines v) (targetBytes v) := by
  have hflags : PutsBits [putBits v.targetListed, putBits v.eventSimulcast, putBits v.linkType, putBits v.targetIdType,
      putBits v.originalNetworkIdFlag, putBits v.serviceIdFlag] (targetFlags v) :=
    (((((putsBits_putBits _).snoc _).snoc _).snoc _).snoc _).snoc _
  exact (((((prints_put16 v.targetEventId).append hflags.prints8).append (prints_put16Opt _)).append
    (prints_put16Opt _)).append (prints_put16Opt _)).append (prints_put16Opt _)

theorem prints_trailerLines {v : LinkageTrailer} (hlen : (trailerBytes v).length ≤ 255) :
    Prints (k + 1) true (trailerLines v) (trailerBytes v) := by
  cases v with
  | absent => exact prints_nil
  | handOver w => exact prints_handOverLines w
  | event w => exact prints_eventLines w
  | targets vs => exact (Prints.flatMap fun w _ => prints_targetLines w).lenPrefixed (Nat.le_of_succ_le hlen)

theorem prints_linkageLines {v : Linkage} (hlen : (linkageBytes v).length ≤ 255) :
    Prints (k + 1) true (linkageLines v) (linkageBytes v) := by
  have htrailer : (trailerBytes v.trailer).length ≤ 255 := by
    simp only [linkageBytes, List.length_append] at hlen
    omega
  exact (((((prints_put16 v.transportStreamId).append (prints_put16 v.originalNetworkId)).append
    (prints_put16 v.serviceId)).append (prints_put8 v.linkageType)).append (prints_trailerLines htrailer)).append
    (prints_putn v.privateData)

theorem prints_cellLines {tfs : BitVec 1} {c : T2Cell} (hlen : (cellBytes tfs c).length ≤ 255) :
    Prints (k + 1) true (cellLines tfs c) (cellBytes tfs c) := by
  obtain ⟨hfrequencies, hsubcells⟩ : (frequencyBytes tfs c.frequencies).length ≤ 255 ∧
      (c.subcells.flatMap subcellBytes).length ≤ 255 := by
    simp only [cellBytes, List.length_append, length_lenBytes] at hlen
    unfold frequencyBytes
    omega
  have hlist : Prints (k + 1) true
      (if tfs = 1#1 then lenPrefixed (c.frequencies.map .put32) else c.frequencies.map .put32)
      (frequencyBytes tfs c.frequencies) := by
    unfold frequencyBytes at *
    split at hfrequencies
    next htfs =>
      rw [if_pos htfs, if_pos htfs]
      exact (prints_map_put32 _).lenPrefixed (Nat.le_of_succ_le hfrequencies)
    next htfs =>
      rw [if_neg htfs, if_neg htfs]
      exact prints_map_put32 _
  have hparts : Prints k true (c.subcells.flatMap subcellLines) (c.subcells.flatMap subcellBytes) :=
    Prints.flatMap fun x _ => (prints_put8 x.cellIdExtension).append (prints_put32 x.transposerFrequency)
  exact ((prints_put16 c.cellId).append hlist).append (hparts.lenPrefixed hsubcells)

theorem prints_t2LongLines {v : T2Long} (hlen : (t2LongBytes v).length ≤ 255) :
    Prints (k + 1) true (t2LongLines v) (t2LongBytes v) := by
  have hcells : (v.cells.flatMap (cellBytes v.tfsFlag)).length ≤ 255 := by
    rw [t2LongBytes, List.length_append] at hlen
    omega
  have hwidth : PutsBits [putBits v.sisoMiso, putBits v.bandwidth, putBits 0b11#2]
      (v.sisoMiso ++ v.bandwidth ++ 0b11#2) := ((putsBits_putBits _).snoc _).snoc _
  have hguard : PutsBits [putBits v.guardInterval, putBits v.transmissionMode, putBits v.otherFrequencyFlag,
      putBits v.tfsFlag] (v.guardInterval ++ v.transmissionMode ++ v.otherFrequencyFlag ++ v.tfsFlag) :=
    (((putsBits_putBits _).snoc _).snoc _).snoc _
  have hlist : Prints (k + 1) true (v.cells.flatMap (cellLines v.tfsFlag)) (v.cells.flatMap (cellBytes v.tfsFlag)) :=
    Prints.flatMap fun _ hc => prints_cellLines ((length_le_length_flatMap_of_mem _ hc).trans hcells)
  exact (hwidth.prints8.append hguard.prints8).append hlist

theorem prints_t2BodyLines {v : T2Delivery} (hlen : (t2BodyBytes v).length ≤ 255) :
    Prints (k + 1) true (t2BodyLines v) (t2BodyBytes v) := by
  obtain ⟨plp, system, long⟩ := v
  have hhead : Prints (k + 1) true [.put8 plp, .put16 system] ([plp] ++ be16 system) :=
    (prints_put8 plp).append (prints_put16 system)
  refine hhead.append ?_
  cases long with
  | none => exact prints_nil
  | some l =>
    rw [t2BodyBytes, List.length_append] at hlen
    exact prints_t2LongLines ((Nat.le_add_left _ _).trans hlen)

end

/-- The encoded descriptor has two bytes more than the payload. -/
theorem appended_encode {i : Instr} {tag : Byte} {p : List Byte} {s : State} (hi : encode i = encodeTlv (tag, p))
    (h : Appended (exec i s) s (encodeTlv (tag, p)) p.length) :
    Appended (exec i s) s (encode i) ((encode i).length - 2) := by
  rw [hi]
  exact h

/-- The room for the encoded descriptor, as the tag, the length and the payload. -/
theorem room_of_encode {i : Instr} {tag : Byte} {p : List Byte} {s : State} (hi : encode i = encodeTlv (tag, p))
    (h : Room s (encode i).length) : Room s (2 + p.length) := by
  rw [hi] at h
  exact room_mono h (Nat.add_comm 2 _).le

/-- Settles O39: what the lines of each kind print is its layout. -/
theorem packAppendsTextKinds : Obligations.PackAppendsTextKinds := by
  intro s i hi hroom hkind
  have nobits : false = true → s.bv.toNat < 2 ^ s.nb.toNat := nofun
  rcases hkind with ⟨⟨v, rfl⟩ | ⟨bs, rfl⟩ | ⟨v, rfl⟩ | ⟨v, rfl⟩, hdepth⟩ | ⟨⟨v, rfl⟩, hdepth, hbv⟩
  · have hlen : (shortEventBytes v).length ≤ 255 := of_decide_eq_true hi
    exact appended_encode rfl
      (appended_packLines (prints_shortEventLines hlen) hlen (k := 1) hdepth (room_of_encode rfl hroom) nobits)
  · have hlen : (mlNetworkNameBytes bs).length ≤ 255 := of_decide_eq_true hi
    exact appended_encode rfl
      (appended_packLines (prints_mlNetworkName hlen) hlen (k := 1) hdepth (room_of_encode rfl hroom) nobits)
  · have hlen : (mlComponentBytes v).length ≤ 255 := of_decide_eq_true hi
    exact appended_encode rfl
      (appended_packLines (prints_mlComponentLines hlen) hlen (k := 1) hdepth (room_of_encode rfl hroom) nobits)
  · have hlen : (dataBroadcastBytes v).length ≤ 255 := of_decide_eq_true hi
    exact appended_encode rfl
      (appended_packLines (prints_dataBroadcastLines hlen) hlen (k := 1) hdepth (room_of_encode rfl hroom) nobits)
  · have hlen : (extendedEventBytes v).length ≤ 255 := of_decide_eq_true hi
    exact appended_encode rfl
      (appended_packLines (prints_extendedEventLines hlen) hlen (k := 2) hdepth (room_of_encode rfl hroom) fun _ => hbv)

/-- Settles O40: what the lines of each kind print is its layout. -/
theorem packAppendsSelectedKinds : Obligations.PackAppendsSelectedKinds := by
  intro s i hi hroom hdepth hbv hkind
  rcases hkind with ⟨v, rfl⟩ | ⟨v, rfl⟩
  · have hlen : (linkageBytes v).length ≤ 255 := of_decide_eq_true (Bool.and_eq_true_iff.1 hi).2
    exact appended_encode rfl
      (appended_packLines (prints_linkageLines hlen) hlen (k := 1) hdepth (room_of_encode rfl hroom) fun _ => hbv)
  · have hlen : (0x04#8 :: t2BodyBytes v).length ≤ 255 := of_decide_eq_true (Bool.and_eq_true_iff.1 hi).2
    have hbody : Prints 1 true (.put8 0x04#8 :: t2BodyLines v) (0x04#8 :: t2BodyBytes v) :=
      (prints_put8 0x04#8).append (prints_t2BodyLines (Nat.le_of_succ_le hlen))
    exact appended_encode rfl
      (appended_packLines hbody hlen (k := 1) hdepth (room_of_encode rfl hroom) fun _ => hbv)

end Sys2Proof.Machine
end

section
/-! PROOFS. Length fields written by commands (spec 40_assembly_patcher.md R108 to R112), and what a pseudo-instruction leaves
where one of its commands fails (30_encoding.md R96, 70_reset_and_hazards.md R306). -/

namespace Sys2Proof.Machine

-- Each proof is checked before the next one begins: many at once would wait on one another in threads.
set_option Elab.async false

/-! ### The two-pass pattern (R108 to R112) -/

theorem prints_map_putn {k : Nat} {bits : Bool} (body : List (List Byte)) :
    Prints k bits (body.map .putn) body.flatten := by
  rw [← List.flatMap_singleton' (body.map _), List.flatMap_map, ← List.flatMap_id]
  exact Prints.flatMap fun b _ => prints_putn b

theorem map_instr_map_putn (body : List (List Byte)) :
    (body.map Line.putn).map Line.instr = body.map .asmPutn := by
  rw [List.map_map]
  rfl

/-- ASM.RSV12 with room and a free entry of PSTK opens a length word. -/
theorem exec_asmRsv12_of_room {hi : Byte} (hhi : hi.toNat ≤ 15) {s : State} (hdepth : s.pstk.length < 8)
    (hroom : Room s 2) :
    exec (.asmRsv12 hi) s = .next ((appended (openWord (hi.extractLsb' 0 4))
      { s with pstk := ⟨s.wp, .w12⟩ :: s.pstk }).answered 0#3 (toResult s.wp.toNat) []) := by
  have hreserve : reserve12 (hi.extractLsb' 0 4) s = _ := reserve_of_room hdepth hroom
  change finish s (inRange (hi.toNat ≤ 15) >>= fun _ => reserve12 (hi.extractLsb' 0 4) s >>= _) = _
  rw [inRange_bind, if_pos hhi, hreserve]
  rfl

/-- The closed length word as two bytes. -/
theorem lengthWordBytes_eq {hi : Byte} (hhi : hi.toNat ≤ 15) {n : Nat} (hn : n ≤ 4095) :
    lengthWordBytes (hi.extractLsb' 0 4) (BitVec.ofNat 12 n) =
      [BitVec.ofNat 8 (hi.toNat * 16 + n / 256), BitVec.ofNat 8 (n % 256)] := by
  have hflags : (BitVec.ofNat 8 (hi.toNat * 16)).toNat / 16 * 16 = hi.toNat * 16 := by
    rw [BitVec.toNat_ofNat]
    omega
  rw [← closedField_openWord, flags_append_zero, closedField_w12 _ hn, hflags]

/-- Settles O11: the body is what its commands print, and closing the field writes its length. -/
theorem twoPassPatternPrefixesTheLength : Obligations.TwoPassPatternPrefixesTheLength := by
  intro s body hdepth
  have nobits : false = true → s.bv = 0#7 := nofun
  refine ⟨fun hlen hroom => ?_, fun hi hhi hroom => ?_⟩
  · have hrun := runLines_lenPrefixed (prints_map_putn body) hlen (k := 0) hdepth (room_mono hroom (Nat.add_comm _ 1).le)
      nobits
    rw [runLines_eq_runAll, lenPrefixed, List.map_cons, List.map_append, map_instr_map_putn] at hrun
    exact ⟨_, hrun, appended_stored _ s, rfl⟩
  · have hlen : body.flatten.length ≤ 4095 := by
      have := hroom.2.1.trans hroom.2.2
      change _ ≤ 4096 at this
      omega
    have hopen := exec_asmRsv12_of_room hhi hdepth (room_mono hroom (Nat.le_add_right 2 _))
    obtain ⟨w, hbody⟩ := prints_map_putn (k := 0) (bits := false) body { s with pstk := ⟨s.wp, .w12⟩ :: s.pstk }
      (openWord (hi.extractLsb' 0 4)) (toResult s.wp.toNat) (show s.pstk.length + 1 ≤ 8 by omega) hroom nobits
    have hclose := patchTop_of_wordBody (hi := hi.extractLsb' 0 4) (s := s.answered 0#3 w []) hroom
    have hpatch : Line.patch.run ((appended (openWord (hi.extractLsb' 0 4) ++ body.flatten)
        { s with pstk := ⟨s.wp, .w12⟩ :: s.pstk }).answered 0#3 w []) =
        .next ((appended (lengthWordBytes (hi.extractLsb' 0 4) (BitVec.ofNat 12 body.flatten.length) ++ body.flatten)
          s).answered 0#3 (BitVec.ofNat 32 body.flatten.length) []) := by
      rw [← toResult_of_lt (show body.flatten.length < 2 ^ 32 by omega)]
      exact (congrArg (fun r => finish _ (r >>= _)) hclose).trans rfl
    have hrun := (runLines_append_ok [.patch] hbody rfl).trans (runLines_cons_ok [] hpatch rfl)
    rw [runLines_eq_runAll, List.map_append, map_instr_map_putn, lengthWordBytes_eq hhi hlen] at hrun
    exact ⟨_, (runAll_cons_ok _ hopen rfl).trans hrun, appended_stored _ s, rfl⟩

/-! ### The commands of a pseudo-instruction (R96) -/

/-- The lines between ASM.RSV8 and ASM.PATCH of each pseudo-instruction. -/
def bodyLines : Instr → List Line
  | .packNetworkName text => [.putn text]
  | .packServiceList es => serviceListLines es
  | .packSatDelivery v => satDeliveryLines v
  | .packCableDelivery v => cableDeliveryLines v
  | .packLinkage v => linkageLines v
  | .packShortEvent v => shortEventLines v
  | .packExtendedEvent v => extendedEventLines v
  | .packTerrDelivery v => terrDeliveryLines v
  | .packMlNetworkName bs => bs.flatMap blockLines
  | .packMlComponent v => mlComponentLines v
  | .packPrivateDataSpec v => [.put32 v]
  | .packFrequencyList v => frequencyListLines v
  | .packDataBroadcast v => dataBroadcastLines v
  | .packExtension x body => extensionLines x body
  | .packExtensionT2 v => .put8 0x04#8 :: t2BodyLines v
  | .packOpaque _ raw => [.putn raw]
  | _ => []

theorem exec_of_packed {i : Instr} {tag : Byte} {p : List Byte} (hpacked : packed i = some (tag, p)) (s : State) :
    exec i s = runLines (packLines tag (bodyLines i)) s := by
  cases i
  all_goals cases hpacked
  all_goals rfl

/-- The commands of a line. -/
theorem Line.instr_cases (l : Line) :
    l.instr = .asmRsv8 ∨ l.instr = .asmPatch ∨ (∃ v : Byte, l.instr = .asmPut8 v) ∨ (∃ v : Half, l.instr = .asmPut16 v) ∨
      (∃ v : Word, l.instr = .asmPut32 v) ∨ (∃ b : List Byte, l.instr = .asmPutn b) ∨
      ∃ (w : Byte) (v : Word), l.instr = .asmPutf w v := by
  cases l <;> simp [Line.instr]

theorem map_instr_packLines (tag : Byte) (body : List Line) :
    (packLines tag body).map Line.instr =
      .asmPut8 tag :: .asmRsv8 :: (body.map Line.instr ++ [.asmPatch]) := by
  rw [packLines, lenPrefixed, List.map_cons, List.map_cons, List.map_append]
  rfl

/-! ### Where a command of a pseudo-instruction fails (R96, R306) -/

section
variable {s : State} {tag : Byte} {body : List Line}

/-- Without room, a line that is an append of `bs` answers BufferTooSmall. -/
theorem run_of_noRoom {l : Line} {bs : List Byte} (h : ∀ s, l.run s = finish s (appendDone bs s)) (hnb : s.nb = 0#3)
    (hfull : s.cap.toNat < s.wp.toNat + bs.length) :
    l.run s = .next (s.answered 3#3 (BitVec.ofNat 32 (s.wp.toNat + bs.length)) []) := by
  rw [h, appendDone_eq, if_pos hnb, if_neg (Nat.not_le.2 hfull)]
  rfl

theorem runLines_packLines_of_pending (hnb : s.nb ≠ 0#3) :
    runLines (packLines tag body) s = .next (s.badCommand 2) := by
  refine runLines_cons_error _ ?_ (show 6#3 ≠ 0#3 by decide)
  change finish s (appendDone [tag] s) = _
  rw [appendDone_eq, if_neg hnb]
  rfl

theorem runLines_packLines_of_noRoom (hnb : s.nb = 0#3) (hfull : s.cap.toNat < s.wp.toNat + 1) :
    runLines (packLines tag body) s = .next (s.answered 3#3 (BitVec.ofNat 32 (s.wp.toNat + 1)) []) :=
  runLines_cons_error _ (run_of_noRoom (l := .put8 tag) (fun _ => rfl) hnb hfull) (show 3#3 ≠ 0#3 by decide)

/-- With room for the tag, the tag is put. -/
theorem runLines_packLines_of_room (hroom : Room s 1) :
    runLines (packLines tag body) s =
      runLines (lenPrefixed body) (complete (appended [tag] s).wp.toNat [] (appended [tag] s)) :=
  runLines_cons_ok _ (run_of_room (l := .put8 tag) (fun _ => rfl) hroom) rfl

theorem runLines_lenPrefixed_of_full (hnb : s.nb = 0#3) (hdepth : 8 ≤ s.pstk.length) :
    runLines (lenPrefixed body) s = .next (s.badCommand 4) := by
  have hreserve : reserve8 s = _ := reserve_eq .w8 [Config.placeholder] s
  rw [if_pos hnb, if_neg (Nat.not_lt.2 hdepth)] at hreserve
  refine runLines_cons_error _ ?_ (show 6#3 ≠ 0#3 by decide)
  exact congrArg (fun r => finish s (r >>= _)) hreserve

theorem runLines_lenPrefixed_of_noRoom (hnb : s.nb = 0#3) (hdepth : s.pstk.length < 8)
    (hfull : s.cap.toNat < s.wp.toNat + 1) :
    runLines (lenPrefixed body) s = .next (s.answered 3#3 (BitVec.ofNat 32 (s.wp.toNat + 1)) []) := by
  have hlong : ¬s.wp.toNat + [Config.placeholder].length ≤ s.cap.toNat := Nat.not_le.2 hfull
  have hreserve : reserve8 s = _ := reserve_eq .w8 [Config.placeholder] s
  rw [if_pos hnb, if_pos hdepth, if_neg hlong] at hreserve
  refine runLines_cons_error _ ?_ (show 3#3 ≠ 0#3 by decide)
  exact congrArg (fun r => finish s (r >>= _)) hreserve

/-- `s` with `bs` appended behind a tag and its length field, which is open. -/
def openDescriptor (tag : Byte) (bs : List Byte) (s : State) : State :=
  appended (tag :: Config.placeholder :: bs) { s with pstk := ⟨BitVec.ofNat 16 (s.wp.toNat + 1), .w8⟩ :: s.pstk }

/-- With room for the tag and its length field, the body runs behind them. -/
theorem runLines_packLines_open (hdepth : s.pstk.length < 8) (hroom : Room s 2) :
    ∃ w : Word, runLines (packLines tag body) s =
      runLines (body ++ [.patch]) ((openDescriptor tag [] s).answered 0#3 w []) := by
  have htag : Room s 1 := room_mono hroom (by decide)
  have hfield : Room (appended [tag] s) 1 := room_appended (xs := [tag]) hroom
  have hreserve := reserve_of_room (kind := .w8) (bs := [Config.placeholder])
    (s := complete (appended [tag] s).wp.toNat [] (appended [tag] s)) hdepth hfield
  have hrun : Line.rsv8.run (complete (appended [tag] s).wp.toNat [] (appended [tag] s)) =
      .next ((openDescriptor tag [] s).answered 0#3 (toResult (appended [tag] s).wp.toNat) []) := by
    have happend : appended [Config.placeholder] (appended [tag] s) = appended [tag, Config.placeholder] s :=
      appended_appended htag.2.1
    change finish _ (reserve .w8 [Config.placeholder] _ >>= _) = _
    rw [hreserve]
    change Host.Outcome.next (complete _ [] { appended [Config.placeholder] (appended [tag] s) with pstk := _ }) = _
    rw [happend]
    rfl
  exact ⟨_, (runLines_packLines_of_room htag).trans (runLines_cons_ok _ hrun rfl)⟩

/-- A payload of one ASM.PUTN that does not fit leaves the tag and the open placeholder. -/
theorem runLines_packLines_putn_of_noRoom {raw : List Byte} (hdepth : s.pstk.length < 8) (hroom : Room s 2)
    (hfull : s.cap.toNat < s.wp.toNat + 2 + raw.length) :
    runLines (packLines tag [.putn raw]) s =
      .next ((openDescriptor tag [] s).answered 3#3 (BitVec.ofNat 32 (s.wp.toNat + 2 + raw.length)) []) := by
  obtain ⟨w, hopen⟩ := runLines_packLines_open (tag := tag) (body := [.putn raw]) hdepth hroom
  have hwp : (openDescriptor tag [] s).wp.toNat = s.wp.toNat + 2 := appended_wp_toNat hroom.2.1
  have hrun := run_of_noRoom (l := .putn raw) (fun _ => rfl) (s := (openDescriptor tag [] s).answered 0#3 w []) hroom.1
    (show s.cap.toNat < (openDescriptor tag [] s).wp.toNat + _ by omega)
  rw [answered_wp, hwp] at hrun
  exact hopen.trans (runLines_cons_error _ hrun (show 3#3 ≠ 0#3 by decide))

/-- A payload of one ASM.PUTN that no length byte holds stays in BUF behind the open placeholder. -/
theorem runLines_packLines_putn_of_long {raw : List Byte} (hlong : 255 < raw.length) (hdepth : s.pstk.length < 8)
    (hroom : Room s (2 + raw.length)) :
    runLines (packLines tag [.putn raw]) s =
      .next ((openDescriptor tag raw s).answered 1#3 (BitVec.ofNat 32 raw.length) []) := by
  obtain ⟨w, hopen⟩ := runLines_packLines_open (tag := tag) (body := [.putn raw]) hdepth (room_mono hroom (by omega))
  obtain ⟨w', hbody⟩ := prints_putn (k := 0) (bits := false) raw
    { s with pstk := ⟨BitVec.ofNat 16 (s.wp.toNat + 1), .w8⟩ :: s.pstk } [tag, Config.placeholder] w
    (show s.pstk.length + 1 ≤ 8 by omega) hroom nofun
  have hfit := hroom.2.1
  have hcap := hroom.2.2
  have hlt := s.cap.isLt
  have hlen : (tag :: Config.placeholder :: raw).length = 2 + raw.length := Nat.add_comm _ 2
  have hwp : (openDescriptor tag raw s).wp.toNat = s.wp.toNat + (2 + raw.length) := by
    rw [← hlen]
    exact appended_wp_toNat (by rw [hlen]; exact hfit)
  have hoff : (BitVec.ofNat 16 (s.wp.toNat + 1)).toNat = s.wp.toNat + 1 := Nat.mod_eq_of_lt (by omega)
  have hread : Memory.read (openDescriptor tag raw s).buf (s.wp.toNat + 1) = some Config.placeholder :=
    (appended_stored (tag :: Config.placeholder :: raw) _).1 1 (by rw [hlen]; omega)
  have hcount : patchCount ⟨BitVec.ofNat 16 (s.wp.toNat + 1), .w8⟩ ((openDescriptor tag raw s).answered 0#3 w' []) =
      raw.length := by
    change (openDescriptor tag raw s).wp.toNat - (BitVec.ofNat 16 (s.wp.toNat + 1)).toNat - 1 = _
    omega
  have hpatch := exec_asmPatch_of_written (s := (openDescriptor tag raw s).answered 0#3 w' [])
    (e := ⟨BitVec.ofNat 16 (s.wp.toNat + 1), .w8⟩) (rest := s.pstk) hroom.1 rfl (hoff.symm ▸ hread)
    (show (BitVec.ofNat 16 (s.wp.toNat + 1)).toNat + 1 ≤ 4096 by change _ ≤ 4096 at hcap; omega)
  rw [hcount, if_neg (show ¬raw.length ≤ maxCount .w8 from Nat.not_le.2 hlong)] at hpatch
  have hrun : Line.patch.run ((openDescriptor tag raw s).answered 0#3 w' []) = _ := hpatch
  rw [hopen]
  exact (runLines_append_ok [.patch] hbody rfl).trans (runLines_cons_error [] hrun (show 1#3 ≠ 0#3 by decide))

end

/-- Settles O41: the lines of each kind, and the first of them that fails. -/
theorem packFailsWhereItsFirstCommandFails : Obligations.PackFailsWhereItsFirstCommandFails := by
  refine ⟨fun i tag p hpacked => ⟨⟨(bodyLines i).map Line.instr, fun j hj => ?_, fun s => ?_⟩, fun s => ⟨?_, ?_, ?_⟩⟩,
    fun s i tag raw hi hdepth => ⟨fun hlong hroom => ?_, fun hroom hfull => ?_⟩⟩
  · obtain ⟨l, -, rfl⟩ := List.mem_map.1 hj
    exact l.instr_cases
  · rw [exec_of_packed hpacked, runLines_eq_runAll, map_instr_packLines]
  · intro hnb
    rw [exec_of_packed hpacked, runLines_packLines_of_pending hnb]
  · intro hnb hfull
    rw [exec_of_packed hpacked, runLines_packLines_of_noRoom hnb hfull]
  · intro hroom hfails
    have hwp : (appended [tag] s).wp.toNat = s.wp.toNat + 1 := appended_wp_toNat hroom.2.1
    rw [exec_of_packed hpacked, runLines_packLines_of_room hroom]
    by_cases hdepth : 8 ≤ s.pstk.length
    · exact ⟨_, runLines_lenPrefixed_of_full hroom.1 hdepth, appended_stored [tag] s, (if_pos hdepth).symm⟩
    · have hfull : s.cap.toNat < (appended [tag] s).wp.toNat + 1 := by
        have := hfails.resolve_left hdepth
        omega
      refine ⟨_, runLines_lenPrefixed_of_noRoom hroom.1 (Nat.not_le.1 hdepth) hfull, appended_stored [tag] s, ?_⟩
      intro left
      rw [if_neg hdepth, complete_wp, hwp]
      rfl
  · have hexec : exec i s = runLines (packLines tag [.putn raw]) s := by
      rcases hi with ⟨rfl, rfl⟩ | rfl <;> rfl
    refine ⟨_, hexec.trans (runLines_packLines_putn_of_long hlong hdepth hroom), appended_stored _ _, ?_⟩
    rw [Nat.add_assoc, Nat.add_comm 2]
    rfl
  · have hexec : exec i s = runLines (packLines tag [.putn raw]) s := by
      rcases hi with ⟨rfl, rfl⟩ | rfl <;> rfl
    exact ⟨_, hexec.trans (runLines_packLines_putn_of_noRoom hdepth hroom hfull), appended_stored _ _, rfl⟩

end Sys2Proof.Machine
end

section
/-! PROOFS. Sections, packets, checksums and wire patterns seen from outside (spec 30_encoding.md R75 to R82 and R96,
44_section_assembler.md R204 to R207, 46_packetizer.md R252 to R257): the numbers that agree with one another, and the bytes
that are written. -/

namespace Sys2Proof.Machine

-- Each proof is checked before the next one begins: many at once would wait on one another in threads.
set_option Elab.async false

/-! ### Wire patterns (R75 to R77, R79 to R82) -/

theorem lengthWordBytes_eq_bigEndian (flags : BitVec 4) (count : BitVec 12) :
    lengthWordBytes flags count = bigEndian 2 (flags.toNat * 4096 + count.toNat) := by
  have hword : (flags ++ count : BitVec (4 + 12)).toNat = flags.toNat * 4096 + count.toNat :=
    toNat_append_eq_mul_add flags count
  rw [lengthWordBytes, be16_eq_bigEndian, hword]

theorem sectionHeaderBytes_eq (tableId : Byte) (len : BitVec 12) (networkId : Half) (version : BitVec 5) :
    sectionHeaderBytes tableId len networkId version =
      tableId :: (bigEndian 2 (0xF000 + len.toNat) ++ bigEndian 2 networkId.toNat ++
        [BitVec.ofNat 8 (0xC0 + 2 * version.toNat + 1), 0#8, 0#8]) := by
  have hversion : (Config.verRsv ++ version ++ Config.cni : BitVec (2 + 5 + 1)) =
      BitVec.ofNat 8 (0xC0 + 2 * version.toNat + 1) := by
    apply BitVec.eq_of_toNat_eq
    simp only [toNat_append_eq_mul_add, Config.verRsv, Config.cni, BitVec.toNat_ofNat]
    omega
  rw [sectionHeaderBytes, hversion, lengthWordBytes_eq_bigEndian, be16_eq_bigEndian]
  rfl

theorem tsHeaderBytes_eq_bigEndian (start : BitVec 1) (pid : BitVec 13) :
    tsHeaderBytes start pid = 0x47#8 :: (bigEndian 2 (start.toNat * 0x4000 + pid.toNat) ++ [0x10#8]) := by
  have hhigh : (start.toNat * 0x4000 + pid.toNat) / 256 = start.toNat * 0x40 + pid.toNat / 256 := by omega
  have hlow : (start.toNat * 0x4000 + pid.toNat) % 256 = pid.toNat % 256 := by omega
  rw [tsHeaderBytes_eq, bigEndian_two, hhigh, hlow]
  rfl

/-- Settles O42: each pattern is an append of its bytes, which are numbers in the order of R11. -/
theorem wirePatternsAppendTheirBytes : Obligations.WirePatternsAppendTheirBytes := by
  intro s
  refine ⟨fun tag length => appendRule_of_exec rfl, fun f c => ?_, fun t len nid v => ?_, fun ts on => ?_, fun crc => ?_,
    fun start pid => ?_, appendRule_of_exec rfl⟩
  · rw [← lengthWordBytes_eq_bigEndian]
    exact appendRule_of_exec rfl
  · rw [← sectionHeaderBytes_eq]
    exact appendRule_of_exec rfl
  · rw [← be16_eq_bigEndian, ← be16_eq_bigEndian]
    exact appendRule_of_exec rfl
  · rw [← be32_eq_bigEndian]
    exact appendRule_of_exec rfl
  · rw [← tsHeaderBytes_eq_bigEndian]
    exact appendRule_of_exec rfl

/-! ### CRC.APPEND (R96) -/

/-- CRC.APPEND with no bits pending is ASM.PUT32 of the checksum of what has been written. -/
theorem execCrcAppend_of_read {s : State} {m : List Byte} (hnb : s.nb = 0#3)
    (hread : Memory.readBytes s.buf 0 s.wp.toNat = some m) :
    execCrcAppend s = execAsmPut32 (crc32 m) (complete (crc32 m).toNat [] s) := by
  have hcalc := exec_crcCalc 0#16 s.wp s
  have hresult : toResult (crc32 m).toNat = crc32 m := by
    rw [toResult_of_lt (crc32 m).isLt, BitVec.ofNat_toNat, BitVec.setWidth_eq]
  rw [if_pos hnb, show (0#16 : Half).toNat = 0 from rfl, if_pos (Nat.zero_add _).le, (bufRead_ok_iff _ _ _ _).2 hread,
    ok_bind] at hcalc
  change execCrcCalc 0#16 s.wp s = _ at hcalc
  rw [execCrcAppend, hcalc]
  change execAsmPut32 (toResult (crc32 m).toNat) _ = _
  rw [hresult]

/-- Settles O31: the checksum of O25, put behind what it covers. -/
theorem crcAppendAppendsTheChecksum : Obligations.CrcAppendAppendsTheChecksum := by
  intro s hm
  obtain ⟨m, hlen, -, hread⟩ := exists_readBytes_of_writtenUpTo hm (Nat.zero_add _).le
  refine ⟨fun hnb => ?_, fun hnb hfull => ?_, fun hroom => ⟨m, hread, ?_⟩⟩
  · have hcalc := exec_crcCalc 0#16 s.wp s
    rw [if_neg hnb] at hcalc
    change execCrcCalc 0#16 s.wp s = _ at hcalc
    rw [execCrcAppend, hcalc]
    rfl
  · rw [execCrcAppend_of_read hnb hread]
    exact run_of_noRoom (l := .put32 (crc32 m)) (fun _ => rfl) hnb hfull
  · have hrun := run_of_room (l := .put32 (crc32 m)) (fun _ => rfl)
      (s := complete (crc32 m).toNat [] s) (show Room s 4 from hroom)
    have hwp := hroom.2.1
    have hcap := s.cap.isLt
    rw [execCrcAppend_of_read hroom.1 hread, ← crcIsBitSerial m, ← be32_eq_bigEndian]
    refine ⟨_, hrun, appended_stored (be32 (crc32 m)) s, ?_⟩
    exact complete_ofNat_eq_answered (n := s.wp.toNat + 4) (by omega) [] _

/-! ### Packets (R252 to R257) -/

/-- Settles O36: the packets are made from the section that stands in BUF and the PID. -/
theorem packetsDependOnlyOnSectionAndPid : Obligations.PacketsDependOnlyOnSectionAndPid := by
  intro s s' cap cap' hbuf hencLen hpid hvalid hvalid' hm hcap hcap' hfit hfit'
  obtain ⟨sec, hlen, -, hread⟩ := exists_readBytes_of_writtenUpTo hm (Nat.zero_add _).le
  have hexec := exec_pktEnc_of_read hcap hvalid hfit hlen hread
  have hexec' := exec_pktEnc_of_read hcap' hvalid' (by rw [← hencLen]; exact hfit') (by rw [← hencLen]; exact hlen)
    (by rw [← hencLen, ← hbuf]; exact hread)
  rw [← hencLen, ← hpid] at hexec'
  exact ⟨_, _, hexec, hexec', rfl, rfl, rfl, rfl⟩

/-- Byte `i` of a section is byte `i + 1` of the stream, behind the pointer_field (R252). -/
theorem getElem?_pktStream_succ {sec : List Byte} {i : Nat} (hi : i < sec.length) :
    (pktStream sec)[i + 1]? = sec[i]? := by
  rw [pktStream_eq, List.getElem?_cons_succ, List.getElem?_append_left hi]

/-- The section comes back out of the payloads of its packets (R253). -/
theorem read_packets_section (pid : BitVec 13) {sec : List Byte} {i : Nat} (hi : i < sec.length) :
    Memory.read (cellsFrom 0 (packets pid sec)) (188 * ((i + 1) / 184) + 4 + (i + 1) % 184) = sec[i]? := by
  have hchunk : (i + 1) / 184 < npkt sec.length := by
    change _ < (sec.length + 184) / 184
    omega
  have hbyte : (i + 1) % 184 < 184 := Nat.mod_lt _ (by decide)
  rw [Nat.add_assoc, read_packets pid hchunk (by omega), getElem?_packet_chunk pid _ _ hbyte, Nat.div_add_mod,
    getElem?_pktStream_succ hi]

/-- Settles O35: PKT.ENC finds the section that SEC.ENC has left. -/
theorem encodedSectionCanBePacketized : Obligations.EncodedSectionCanBePacketized := by
  intro s cap cap' hready hcap' hfit
  have hlen := length_sectionLayout Config.entityDescLen s
  have hmax : secSize Config.entityDescLen s ≤ 1024 := hready.2.2.1
  generalize hn : secSize Config.entityDescLen s = n at *
  have hencLen : (BitVec.ofNat 16 n).toNat = n := Nat.mod_eq_of_lt (by omega)
  have hsec := exec_secEnc_of_ready hready
  rw [hn] at hsec
  have hread : Memory.readBytes (Memory.write [] 0 (sectionLayout Config.entityDescLen s)) 0 (BitVec.ofNat 16 n).toNat =
      some (sectionLayout Config.entityDescLen s) := by
    rw [hencLen, ← hlen]
    exact readBytes_write [] 0 _
  have hpkt := exec_pktEnc_of_read (cap := cap')
    (s := s.sectionDone cap n (Memory.write [] 0 (sectionLayout Config.entityDescLen s)))
    hcap' rfl (by change npkt (BitVec.ofNat 16 n).toNat * 188 ≤ _; rw [hencLen]; exact hfit) (hlen.trans hencLen.symm) hread
  refine ⟨_, (runAll_cons_ok _ hsec rfl).trans (runAll_cons_ok _ hpkt rfl), rfl, ?_, ?_, fun i hi => ?_⟩
  · change (BitVec.ofNat 32 (npkt (BitVec.ofNat 16 n).toNat * 188)).toNat = (n + 184) / 184 * 188
    rw [hencLen]
    exact Nat.mod_eq_of_lt (by change (n + 184) / 184 * 188 < _; omega)
  · change (BitVec.ofNat 16 (npkt (BitVec.ofNat 16 n).toNat * 188)).toNat =
      (BitVec.ofNat 32 (npkt (BitVec.ofNat 16 n).toNat * 188)).toNat
    have hbytes : npkt n * 188 < 2 ^ 16 := by change (n + 184) / 184 * 188 < _; omega
    rw [hencLen, BitVec.toNat_ofNat, BitVec.toNat_ofNat, Nat.mod_eq_of_lt hbytes, Nat.mod_eq_of_lt (by omega)]
  · exact read_packets_section _ (hlen ▸ hi)

/-! ### The lengths in a section and its checksum (R78, R80, R204 to R207) -/

/-- A length word that stands in a byte sequence holds its count in its low 12 bits (R76). -/
theorem count_of_lengthWord {bs pre : List Byte} {flags : BitVec 4} {n i : Nat} {a b : Byte} (hn : n < 4096)
    (hbs : pre ++ lengthWordBytes flags (BitVec.ofNat 12 n) <+: bs) (hpre : pre.length = i)
    (ha : bs[i]? = some a) (hb : bs[i + 1]? = some b) : (a.toNat * 256 + b.toNat) % 4096 = n := by
  obtain ⟨post, rfl⟩ := hbs
  subst hpre
  rw [List.append_assoc] at ha hb
  rw [List.getElem?_append_right (Nat.le_refl _), Nat.sub_self] at ha
  rw [List.getElem?_append_right (Nat.le_add_right _ _), Nat.add_sub_cancel_left] at hb
  obtain rfl := Option.some.inj ha
  obtain rfl := Option.some.inj hb
  simp only [extractLsb'_eq_ofNat_div, toNat_append_eq_mul_add, BitVec.toNat_ofNat]
  omega

/-- The section ends with the bit-serial CRC of the bytes before it. -/
theorem drop_sectionLayout (edl : Bool) (s : State) :
    (sectionLayout edl s).drop ((sectionLayout edl s).length - 4) =
      bigEndian 4 (crcSpec ((sectionLayout edl s).take ((sectionLayout edl s).length - 4))) := by
  have hlen : (sectionLayout edl s).length - 4 = (sectionBody edl s).length := by
    rw [length_sectionLayout, ← length_sectionBody, Nat.add_sub_cancel]
  rw [hlen, sectionLayout, List.drop_left, List.take_left, ← crcIsBitSerial, be32_eq_bigEndian]

/-- The sizes of the parts of a section (R204). -/
theorem secSize_eq (edl : Bool) (s : State) : secSize edl s = 16 + dsize s.descs + entitiesSize edl s.ents := by
  rw [secSize, entitiesSize, Config.crcLen]
  omega

/-- The section in order, up to its last length word (R78). -/
theorem lengthWords_prefix_sectionLayout (edl : Bool) (s : State) :
    let header := sectionHeaderBytes s.tableId (BitVec.ofNat 12 (secSize edl s - 3)) s.networkId s.version
    let descsWord := lengthWordBytes Config.rsv4 (BitVec.ofNat 12 (dsize s.descs))
    let entsWord := lengthWordBytes Config.rsv4 (BitVec.ofNat 12 (entitiesSize edl s.ents))
    header ++ descsWord ++ descsBytes s.descs ++ entsWord <+: sectionLayout edl s :=
  (List.prefix_append _ _).trans (List.prefix_append _ _)

/-- Settles O24: both encodings leave the layout of R78, whose length words count its parts. -/
theorem sectionLengthsAndChecksumAgree : Obligations.SectionLengthsAndChecksumAgree := by
  intro s cap cap' hready hready'
  have hlen := length_sectionLayout Config.entityDescLen s
  have hsize := secSize_eq Config.entityDescLen s
  have hvalid : s.valid = true := hready.2.1
  have hmax : secSize Config.entityDescLen s ≤ 1024 := hready.2.2.1
  have hsec := exec_secEnc_of_ready hready
  have hsec' := exec_secEnc_of_ready hready'
  have hexec : exec .secSize s = .next (complete (secSize Config.entityDescLen s) [] s) := by
    change finish s (sectionOpen s >>= _) = _
    rw [finish_sectionOpen_bind, if_pos hvalid]
    rfl
  rw [← hlen] at hsec hsec' hexec hmax
  rw [← hlen] at hsize
  have hread := readBytes_write [] 0 (sectionLayout Config.entityDescLen s)
  have hprefix := lengthWords_prefix_sectionLayout Config.entityDescLen s
  refine ⟨_, _, _, sectionLayout Config.entityDescLen s, hsec, hsec', hexec, hread, hread, rfl, rfl, ?_, ?_, ?_, ?_, ?_,
    drop_sectionLayout _ s, fun a b ha hb => ?_, fun a b ha hb => ?_, fun a b ha hb => ?_⟩
  · exact (toResult_of_lt (by omega)).symm
  · exact Nat.mod_eq_of_lt (by omega)
  · exact Nat.mod_eq_of_lt (by omega)
  · exact Nat.mod_eq_of_lt (by omega)
  · omega
  · have hword : [s.tableId] ++ lengthWordBytes Config.secFlags
        (BitVec.ofNat 12 (secSize Config.entityDescLen s - 3)) <+: sectionLayout Config.entityDescLen s :=
      (((List.prefix_append _ _).trans (List.prefix_append _ _)).trans
        (((List.prefix_append _ _).trans (List.prefix_append _ _)).trans (List.prefix_append _ _))).trans hprefix
    rw [← hlen] at hword
    exact count_of_lengthWord (by omega) hword rfl ha hb
  · exact count_of_lengthWord (by omega)
      (((List.prefix_append _ _).trans (List.prefix_append _ _)).trans hprefix) rfl ha hb
  · have hcount := count_of_lengthWord (i := 10 + dsize s.descs) (a := a) (b := b) (by omega) hprefix
      (by rw [List.length_append, length_descsBytes]; rfl) ha (by rw [← hb]; congr 1; omega)
    omega

end Sys2Proof.Machine
end
